-- ==== Sys2Proof/Word.lean ====
section
/-! DEFINITION. The word types of the machine (spec/00_scope.md R3, R5). Every quantity is unsigned. -/

namespace Sys2Proof

/-- A memory cell, a general register, a timer or an immediate `kk`: 8 bits. -/
abbrev Byte := BitVec 8

/-- `pc`, `opcode`, `index` and a return address: 16 bits. -/
abbrev Word := BitVec 16

/-- A byte address of main memory, or an immediate `nnn`: 12 bits, so no address outside the 4096 cells exists. -/
abbrev Address := BitVec 12

/-- The number of a general register, the fields `x` and `y` (R6): 0 to 15. -/
abbrev Reg := Fin 16

/-- The number of a key, 0x0 to 0xF (R20). -/
abbrev Key := Fin 16

/-- The number of sprite rows, the field `n` (R6): 0 to 15. -/
abbrev RowCount := Fin 16

/-- The number of a cell of the framebuffer, 0 to 2047 (R21). -/
abbrev VideoCell := Fin 2048

/-- `VF`, the sixteenth register, number 15: the carry, borrow and collision flag (R12, 90_conflicts C2). -/
abbrev vf : Reg := 15

end Sys2Proof
end

