-- ==== Sys2Proof/Decode.lean ====
section
/-! DEFINITION. Field extraction, decode and encode (spec/30_encoding.md R53 to R58), on a word and on bytes. Decode
is total: a word no row selects is rejected by name (R55, R59). -/

namespace Sys2Proof

/-- N3, the primary opcode family (R5). -/
def nib3 (w : Word) : BitVec 4 := w.extractLsb' 12 4

/-- N0, the lowest nibble (R5). -/
def nib0 (w : Word) : BitVec 4 := w.extractLsb' 0 4

/-- `x = (opcode & 0x0F00) >> 8` (R6, R57). -/
def fieldX (w : Word) : Reg := (w.extractLsb' 8 4).toFin

/-- `y = (opcode & 0x00F0) >> 4` (R6, R57). -/
def fieldY (w : Word) : Reg := (w.extractLsb' 4 4).toFin

/-- `n = opcode & 0x000F` (R6, R57). -/
def fieldN (w : Word) : RowCount := (w.extractLsb' 0 4).toFin

/-- `kk = opcode & 0x00FF` (R6, R57). -/
def fieldKK (w : Word) : Byte := w.extractLsb' 0 8

/-- `nnn = opcode & 0x0FFF` (R6, R57). -/
def fieldNNN (w : Word) : Address := w.extractLsb' 0 12

/-- Family 0x8, selected by N0 (R54). -/
def decodeFamily8 (w : Word) : Option Instr :=
  match nib0 w with
  | 0x0#4 => some (.ldReg (fieldX w) (fieldY w))
  | 0x1#4 => some (.orReg (fieldX w) (fieldY w))
  | 0x2#4 => some (.andReg (fieldX w) (fieldY w))
  | 0x3#4 => some (.xorReg (fieldX w) (fieldY w))
  | 0x4#4 => some (.addReg (fieldX w) (fieldY w))
  | 0x5#4 => some (.sub (fieldX w) (fieldY w))
  | 0x6#4 => some (.shr (fieldX w) (fieldY w))
  | 0x7#4 => some (.subn (fieldX w) (fieldY w))
  | 0xE#4 => some (.shl (fieldX w) (fieldY w))
  | _ => none

/-- Family 0xE, selected by the low byte (R54). -/
def decodeFamilyE (w : Word) : Option Instr :=
  match fieldKK w with
  | 0x9E#8 => some (.skp (fieldX w))
  | 0xA1#8 => some (.sknp (fieldX w))
  | _ => none

/-- Family 0xF, selected by the low byte (R54). -/
def decodeFamilyF (w : Word) : Option Instr :=
  match fieldKK w with
  | 0x07#8 => some (.ldVxDt (fieldX w))
  | 0x0A#8 => some (.ldVxK (fieldX w))
  | 0x15#8 => some (.ldDtVx (fieldX w))
  | 0x18#8 => some (.ldStVx (fieldX w))
  | 0x1E#8 => some (.addI (fieldX w))
  | 0x29#8 => some (.ldF (fieldX w))
  | 0x33#8 => some (.ldB (fieldX w))
  | 0x55#8 => some (.ldMemVx (fieldX w))
  | 0x65#8 => some (.ldVxMem (fieldX w))
  | _ => none

/-- Decode and dispatch of one instruction word (R53 to R55): `none` is the unknown-instruction case. Family 0x0
compares the whole word, families 0x5 and 0x9 their lowest nibble (decisions D1, D2, log entry 10). -/
def decodeWord (w : Word) : Option Instr :=
  match nib3 w with
  | 0x0#4 => if w = 0x00E0#16 then some .cls else if w = 0x00EE#16 then some .ret else none
  | 0x1#4 => some (.jp (fieldNNN w))
  | 0x2#4 => some (.call (fieldNNN w))
  | 0x3#4 => some (.seImm (fieldX w) (fieldKK w))
  | 0x4#4 => some (.sneImm (fieldX w) (fieldKK w))
  | 0x5#4 => if nib0 w = 0x0#4 then some (.seReg (fieldX w) (fieldY w)) else none
  | 0x6#4 => some (.ldImm (fieldX w) (fieldKK w))
  | 0x7#4 => some (.addImm (fieldX w) (fieldKK w))
  | 0x8#4 => decodeFamily8 w
  | 0x9#4 => if nib0 w = 0x0#4 then some (.sneReg (fieldX w) (fieldY w)) else none
  | 0xA#4 => some (.ldI (fieldNNN w))
  | 0xB#4 => some (.jpV0 (fieldNNN w))
  | 0xC#4 => some (.rnd (fieldX w) (fieldKK w))
  | 0xD#4 => some (.drw (fieldX w) (fieldY w) (fieldN w))
  | 0xE#4 => decodeFamilyE w
  | _ => decodeFamilyF w

/-- The first byte is the high byte of the word, big-endian (spec/20_memory.md R34). -/
def joinBytes (hi lo : Byte) : Word := hi ++ lo

/-- The high byte of a word, stored first (R34). -/
def highByte (w : Word) : Byte := w.extractLsb' 8 8

/-- The low byte of a word, stored second (R34). -/
def lowByte (w : Word) : Byte := w.extractLsb' 0 8

/-- Why bytes are not an instruction. -/
inductive DecodeError where
  /-- Fewer than the two bytes every instruction has (R50). -/
  | truncated
  /-- The word matches no row of the opcode map (R59). -/
  | unknownWord (w : Word)
  deriving DecidableEq, Repr

/-- Decode the instruction at the head of a byte string, with the bytes after it (R34, R50). -/
def decodeBytes : List Byte → Except DecodeError (Instr × List Byte)
  | hi :: lo :: rest =>
    match decodeWord (joinBytes hi lo) with
    | some i => .ok (i, rest)
    | none => .error (.unknownWord (joinBytes hi lo))
  | _ => .error .truncated

/-- What the decoder reads from an instruction whose bits are `w`, given `nbits` of them (every row of the opcode
table has 16); the word is laid out in memory order, high byte first (R34). -/
def decodeTableWord (nbits w : Nat) : Option Instr :=
  let word : Word := BitVec.ofNat 16 (w % 2 ^ nbits)
  match decodeBytes [highByte word, lowByte word] with
  | .ok (i, _) => some i
  | .error _ => none

/-! ### The encoder, from the same formats (R56) -/

/-- Format `A`: family and `nnn`. -/
def formA (family : BitVec 4) (nnn : Address) : Word := family ++ nnn

/-- Format `XK`: family, `x` and `kk`. -/
def formXK (family : BitVec 4) (x : Reg) (kk : Byte) : Word := family ++ BitVec.ofFin (w := 4) x ++ kk

/-- Formats `XY` and `XYN`: family, `x`, `y` and the lowest nibble. -/
def formXYN (family : BitVec 4) (x y : Reg) (low : BitVec 4) : Word :=
  family ++ BitVec.ofFin (w := 4) x ++ BitVec.ofFin (w := 4) y ++ low

/-- The word of an instruction (R56, R58). -/
def encode : Instr → Word
  | .cls => 0x00E0
  | .ret => 0x00EE
  | .jp nnn => formA 0x1 nnn
  | .call nnn => formA 0x2 nnn
  | .seImm x kk => formXK 0x3 x kk
  | .sneImm x kk => formXK 0x4 x kk
  | .seReg x y => formXYN 0x5 x y 0x0
  | .ldImm x kk => formXK 0x6 x kk
  | .addImm x kk => formXK 0x7 x kk
  | .ldReg x y => formXYN 0x8 x y 0x0
  | .orReg x y => formXYN 0x8 x y 0x1
  | .andReg x y => formXYN 0x8 x y 0x2
  | .xorReg x y => formXYN 0x8 x y 0x3
  | .addReg x y => formXYN 0x8 x y 0x4
  | .sub x y => formXYN 0x8 x y 0x5
  | .shr x y => formXYN 0x8 x y 0x6
  | .subn x y => formXYN 0x8 x y 0x7
  | .shl x y => formXYN 0x8 x y 0xE
  | .sneReg x y => formXYN 0x9 x y 0x0
  | .ldI nnn => formA 0xA nnn
  | .jpV0 nnn => formA 0xB nnn
  | .rnd x kk => formXK 0xC x kk
  | .drw x y n => formXYN 0xD x y (BitVec.ofFin (w := 4) n)
  | .skp x => formXK 0xE x 0x9E
  | .sknp x => formXK 0xE x 0xA1
  | .ldVxDt x => formXK 0xF x 0x07
  | .ldVxK x => formXK 0xF x 0x0A
  | .ldDtVx x => formXK 0xF x 0x15
  | .ldStVx x => formXK 0xF x 0x18
  | .addI x => formXK 0xF x 0x1E
  | .ldF x => formXK 0xF x 0x29
  | .ldB x => formXK 0xF x 0x33
  | .ldMemVx x => formXK 0xF x 0x55
  | .ldVxMem x => formXK 0xF x 0x65

/-- The bytes of an instruction as memory holds them (R34, R50). -/
def encodeBytes (i : Instr) : List Byte := [highByte (encode i), lowByte (encode i)]

end Sys2Proof
end

