-- ==== Sys2Proof/Config.lean ====
section
/-! DEFINITION. The fixed sizes of the machine (spec/00_scope.md R3) and the two values the spec leaves open: the
random byte and the choice among several pressed keys (R4). A constant with no body is a FREE VALUE: nothing can be
proved about which value it is, so what is proved holds for every value. -/

namespace Sys2Proof

/-- `MEM_SIZE` (R3). -/
abbrev Config.memSize : Nat := 4096

/-- `PROG_START`, the address `load` writes from and the reset value of `pc` (R3). -/
abbrev Config.progStart : Nat := 0x200

/-- `PROG_MAX_BYTES` (R3, R163). -/
abbrev Config.progMaxBytes : Nat := 3584

/-- `FONT_START` (R3). -/
abbrev Config.fontStart : Nat := 0x050

/-- `FONT_BYTES` (R3). -/
abbrev Config.fontBytes : Nat := 80

/-- `FONT_GLYPH_BYTES` (R3). -/
abbrev Config.glyphBytes : Nat := 5

/-- `VIDEO_W` and `VIDEO_H` (R3). -/
abbrev Config.videoW : Nat := 64

/-- `VIDEO_H` (R3). -/
abbrev Config.videoH : Nat := 32

/-- `STACK_DEPTH` (R3). -/
abbrev Config.stackDepth : Nat := 16

/-- FREE VALUE: the byte `rnd` the `k`-th executed `Cxkk` of the process draws from the process-wide random source, whose algorithm,
seed and sequence the spec does not give (R103, R24, decision D16). DESIGN CHOICE in form (log entry 6), safe: no
property of the sequence can be proved. -/
opaque Config.randomByte : Nat → Byte

/-- FREE VALUE: the parameter `KEYWAIT_SELECT` (R4, R133, decision D12), which key `Fx0A` reports when several are
pressed. `Machine.selectKey` uses its answer only where it is a pressed key (log entry 7), safe. -/
opaque Config.keywaitChoice : Vector Bool 16 → Key

end Sys2Proof
end

