-- ==== Sys2Proof/Machine/Params.lean ====
section
/-! DEFINITION. The parameters whose defaults the spec recommends (spec/00_scope.md R4): the font bytes and the two
reset values, and the contents of memory after reset (spec/10_state.md R26, R27). -/

namespace Sys2Proof.Machine

/-- `FONT[0..79]` (R26): the spec's recommended default table, which the source does not give. PRESUMED (log entry 1),
unsafe: a proof about a glyph's bytes would be false of a machine with another table. -/
def font : List Byte :=
  [0xF0, 0x90, 0x90, 0x90, 0xF0] ++ [0x20, 0x60, 0x20, 0x20, 0x70] ++ [0xF0, 0x10, 0xF0, 0x80, 0xF0]
  ++ [0xF0, 0x10, 0xF0, 0x10, 0xF0] ++ [0x90, 0x90, 0xF0, 0x10, 0x10] ++ [0xF0, 0x80, 0xF0, 0x10, 0xF0]
  ++ [0xF0, 0x80, 0xF0, 0x90, 0xF0] ++ [0xF0, 0x10, 0x20, 0x40, 0x40] ++ [0xF0, 0x90, 0xF0, 0x90, 0xF0]
  ++ [0xF0, 0x90, 0xF0, 0x10, 0xF0] ++ [0xF0, 0x90, 0xF0, 0x90, 0x90] ++ [0xE0, 0x90, 0xE0, 0x90, 0xE0]
  ++ [0xF0, 0x80, 0x80, 0x80, 0xF0] ++ [0xE0, 0x90, 0x90, 0x90, 0xE0] ++ [0xF0, 0x80, 0xF0, 0x80, 0xF0]
  ++ [0xF0, 0x80, 0xF0, 0x80, 0x80]

/-- `INDEX_RESET` (R15, decision D15): the spec's recommended default. DESIGN CHOICE (log entry 2), unsafe. -/
def indexReset : Address := 0x000

/-- `OPCODE_RESET` (R23, decision D15): the spec's recommended default. DESIGN CHOICE (log entry 3), unsafe. -/
def opcodeReset : Word := 0x0000

/-- The byte a memory cell holds after reset (R27): the font in `0x050..0x09F`, 0 elsewhere. This is what an address
that `State.mem` does not list reads as. -/
def resetByte (a : Nat) : Byte :=
  if Config.fontStart ≤ a ∧ a < Config.fontStart + Config.fontBytes then font.getD (a - Config.fontStart) 0 else 0

end Sys2Proof.Machine
end

