-- ==== Sys2Proof/Machine/State.lean ====
section
/-! DEFINITION. The machine state (spec/10_state.md R10), the faults of a cycle (spec/60_exceptions.md R140), the
refusals, and the state after reset (R27, R160). -/

namespace Sys2Proof.Machine

/-- Main memory as the cells that differ from their reset contents (`resetByte`), addresses strictly rising. -/
abbrev Memory := List Host.Cell

/-- The eleven elements of R10, and one field of the model's own (`draws`). -/
structure State where
  /-- `memory`, 4096 cells of 8 bits (R31); a cell that is not listed reads as `resetByte`. -/
  mem : Memory
  /-- `registers`, `V[0]` to `V[15]` (R11); `V[15]` is `VF` (R12). -/
  v : Vector Byte 16
  /-- `index`, 16 bits of which 12 are significant (R15). -/
  i : Word
  /-- `pc` (R13). -/
  pc : Word
  /-- `stack`, 16 return addresses (R16). -/
  stack : Vector Word 16
  /-- `sp`, the number of return addresses held, 0 to 16 (R17). -/
  sp : Fin 17
  /-- `delay_timer` (R18). -/
  dt : Byte
  /-- `sound_timer` (R19). -/
  st : Byte
  /-- `keypad`, one flag per key, true is pressed (R20). -/
  keys : Vector Bool 16
  /-- `video`, 2048 one-bit cells (R21) as 32 rows of 64: bit `px` of row `py` is cell `py * 64 + px` (R22). -/
  video : Vector (BitVec 64) 32
  /-- `opcode`, the word fetched last (R23). -/
  opcode : Word
  /-- The model's own: how many random bytes the process has drawn (R103); it only indexes `Config.randomByte`. -/
  draws : Nat
  deriving DecidableEq, Repr

/-- The faults of a cycle, with the information each reports (R140). A fault is the result of the cycle: the machine has
no handler, no vector and no return from it (R148, R149). All five are the spec's, so each is safe. -/
inductive Fault where
  /-- Code 4, raised by fetch when `pc` is outside `0x200..0xFFE` (R144); safe. -/
  | fetchOutOfRange (pc : Word)
  /-- Code 1, raised by dispatch when the word matches no row of the opcode map (R141); safe. -/
  | unknownInstruction (word addr : Word)
  /-- Code 2, raised by `2nnn` when `sp = 16` (R142); safe. -/
  | stackOverflow (word addr : Word)
  /-- Code 3, raised by `00EE` when `sp = 0` (R143); safe. -/
  | stackUnderflow (word addr : Word)
  /-- Code 5, raised by `Ex9E` and `ExA1` when `V[x] > 15` (R145); safe. -/
  | keypadIndexOutOfRange (word addr : Word) (value : Byte)
  deriving DecidableEq, Repr

/-- What the model gives no meaning. -/
inductive Refusal where
  /-- Raised only by an arm of `exec` whose instruction has no meaning yet; there is none. Safe. -/
  | notModelled (mnemonic : String)
  deriving DecidableEq, Repr

/-- The outcome of an instruction or of a step. -/
abbrev Result := Host.Outcome State Fault Refusal

/-- The state after reset (R27, R160). The values the spec leaves to a parameter are those of Machine/Params.lean
(log entries 1 to 4); `draws` starts at 0 (DESIGN CHOICE, log entry 6), and a
reset within a run keeps it (`resetFrom`, Machine/Session.lean). -/
def State.reset : State where
  mem := []
  v := Vector.replicate 16 0
  i := indexReset.setWidth 16
  pc := 0x200
  stack := Vector.replicate 16 0
  sp := 0
  dt := 0
  st := 0
  keys := Vector.replicate 16 false
  video := Vector.replicate 32 0
  opcode := opcodeReset
  draws := 0

end Sys2Proof.Machine
end

