-- ==== Sys2Proof/Machine/Ops.lean ====
section
/-! DEFINITION. The named operations over the state: main memory (spec/20_memory.md), registers (spec/10_state.md),
the call stack, the framebuffer, the keypad, the random source, fetch (spec/30_encoding.md R52) and raising a fault
(spec/60_exceptions.md R140, R148). -/

namespace Sys2Proof.Machine

/-! ### Main memory as a canonical list -/

/-- The byte of a cell (R31). -/
def memRead : Memory → Nat → Byte
  | [], a => resetByte a
  | (b, w) :: m, a => if a = b then w else memRead m a

/-- A cell in front of a list, unless it holds its reset contents. -/
def memCons (a : Nat) (v : Byte) (m : Memory) : Memory := if v = resetByte a then m else (a, v) :: m

/-- Replace the byte of a cell (R31), keeping the canonical form. -/
def memWrite : Memory → Nat → Byte → Memory
  | [], a, v => memCons a v []
  | (b, w) :: m, a, v =>
    if a < b then memCons a v ((b, w) :: m)
    else if a = b then memCons a v m
    else (b, w) :: memWrite m a v

/-- Every listed cell is at `lo` or above, exists, rises, and differs from its reset contents. -/
def memWfFrom : Nat → Memory → Bool
  | _, [] => true
  | lo, (a, v) :: m => decide (lo ≤ a) && decide (a < Config.memSize) && !(v == resetByte a) && memWfFrom (a + 1) m

/-- The canonical form of main memory: equal memories are equal lists. -/
def memWf (m : Memory) : Bool := memWfFrom 0 m

/-- Copy bytes to consecutive cells from `a` upward (R162). -/
def memWriteList (m : Memory) (a : Nat) : List Byte → Memory
  | [] => m
  | b :: bs => memWriteList (memWrite m a b) (a + 1) bs

/-! ### One update per piece of state -/

/-- `MemRead(a, 1)` (R7, R31). -/
def State.readByte (s : State) (a : Address) : Byte := memRead s.mem a.toNat

/-- `MemWrite(a, 1, v)` (R7, R31). -/
def State.writeByte (s : State) (a : Address) (v : Byte) : State := { s with mem := memWrite s.mem a.toNat v }

/-- Read of `V[x]` (R7, R11). -/
def State.getV (s : State) (x : Reg) : Byte := s.v[x.val]

/-- `V[x] <- b` (R7, R11); no register is hard-wired. -/
def State.setV (s : State) (x : Reg) (b : Byte) : State := { s with v := s.v.set x.val b }

/-- `I <- a`: the index register holds a 12-bit value, bits 15..12 are 0 (R15). -/
def State.setI (s : State) (a : Address) : State := { s with i := a.setWidth 16 }

/-- `pc <- w` (R13). -/
def State.setPc (s : State) (w : Word) : State := { s with pc := w }

/-- `DT <- b` (R18). -/
def State.setDt (s : State) (b : Byte) : State := { s with dt := b }

/-- `ST <- b` (R19). -/
def State.setSt (s : State) (b : Byte) : State := { s with st := b }

/-- The host's write of the keypad (R20, R136). -/
def State.setKeys (s : State) (k : Vector Bool 16) : State := { s with keys := k }

/-- The whole framebuffer (R21). -/
def State.setVideo (s : State) (b : Vector (BitVec 64) 32) : State := { s with video := b }

/-- `opcode <- w` (R23). -/
def State.setOpcode (s : State) (w : Word) : State := { s with opcode := w }

/-- The model's own counter of drawn bytes moves on (R103, log entry 6). -/
def State.countDraw (s : State) : State := { s with draws := s.draws + 1 }

/-- A skip: step over one 16-bit instruction when the condition holds (R78, R14). -/
def State.skipIf (s : State) (c : Bool) : State := if c then s.setPc (s.pc + 2) else s

/-! ### The call stack (R16, R17) -/

/-- Push a return address: `stack[sp] <- w`, then `sp <- sp + 1` (R72). -/
def State.push (s : State) (w : Word) (h : s.sp.val < 16) : State :=
  { s with stack := s.stack.set s.sp.val w, sp := ⟨s.sp.val + 1, Nat.succ_lt_succ h⟩ }

/-- `sp <- sp - 1`; the popped slot keeps its value (R70, R16). -/
def State.dropTop (s : State) : State :=
  { s with sp := ⟨s.sp.val - 1, Nat.lt_of_le_of_lt (Nat.sub_le _ _) s.sp.isLt⟩ }

/-- `stack[sp - 1]`, the most recent return address when `sp` is not 0 (R17). -/
def State.topOfStack (s : State) : Word := s.stack[s.sp.val - 1]'(Nat.lt_of_le_of_lt (Nat.sub_le_sub_right
  (Nat.le_of_lt_succ s.sp.isLt) 1) (by decide))

/-! ### The framebuffer (R21, R22) -/

/-- The row of a cell, `c div 64` (R22). -/
def cellRow (c : VideoCell) : Fin 32 := ⟨c.val / 64, Nat.div_lt_of_lt_mul c.isLt⟩

/-- The column of a cell, `c mod 64` (R22). -/
def cellColumn (c : VideoCell) : Nat := c.val % 64

/-- Whether cell `c` of a framebuffer is on. -/
def cellOn (b : Vector (BitVec 64) 32) (c : VideoCell) : Bool := b[(cellRow c).val].getLsbD (cellColumn c)

/-- Cell `c` of a framebuffer XORed with 1 (R121). -/
def cellFlip (b : Vector (BitVec 64) 32) (c : VideoCell) : Vector (BitVec 64) 32 :=
  b.set (cellRow c).val (b[(cellRow c).val] ^^^ BitVec.twoPow 64 (cellColumn c))

/-- Whether cell `c` is on. -/
def State.pixel (s : State) (c : VideoCell) : Bool := cellOn s.video c

/-- `video[c] <- video[c] ^ 1` (R121). -/
def State.flipPixel (s : State) (c : VideoCell) : State := s.setVideo (cellFlip s.video c)

/-- Every cell off (R120, R21). -/
def blankVideo : Vector (BitVec 64) 32 := Vector.replicate 32 0

/-- The cell at column `px`, row `py`, both reduced modulo the screen size: `c = py * 64 + px` (R22, decision D9,
log entry 16). -/
def cellAt (px py : Nat) : VideoCell :=
  ⟨(py % Config.videoH) * Config.videoW + px % Config.videoW, by
    simp only [Config.videoH, Config.videoW]; omega⟩

/-! ### The keypad (R20, R133) -/

/-- The sixteen keys in rising order. -/
def allKeys : List Key := [0, 1, 2, 3, 4, 5, 6, 7, 8, 9, 10, 11, 12, 13, 14, 15]

/-- Whether key `k` is pressed (R20). -/
def keyPressed (keys : Vector Bool 16) (k : Key) : Bool := keys[k.val]

/-- The set `P` of pressed keys (R133), in rising order. -/
def pressedKeys (keys : Vector Bool 16) : List Key := allKeys.filter (keyPressed keys)

/-- `KEYWAIT_SELECT(P)` (R4, R133): nothing when no key is pressed, that key when one is, and one of the pressed keys,
the spec does not say which, when several are. The choice is the free value `Config.keywaitChoice` wherever that names a
pressed key (decision D12, log entry 7). -/
def selectKey (keys : Vector Bool 16) : Option Key :=
  match pressedKeys keys with
  | [] => none
  | [k] => some k
  | k :: _ => if keyPressed keys (Config.keywaitChoice keys) then some (Config.keywaitChoice keys) else some k

/-! ### The random source (R103) -/

/-- `draw rnd`: a free byte, a new one at every draw (log entry 6). -/
def State.drawnByte (s : State) : Byte := Config.randomByte s.draws

/-! ### Fetch (R52) -/

/-- The addresses a fetch may start at: `0x200 ≤ pc ≤ 0xFFE` (R13, R37, decision D3, log entry 9). -/
def State.canFetch (s : State) : Bool := decide (0x200 ≤ s.pc.toNat) && decide (s.pc.toNat ≤ 0xFFE)

/-- The word at `pc`: the high byte at `pc`, the low byte at `pc + 1` (R34). -/
def State.wordAtPc (s : State) : Word :=
  joinBytes (s.readByte (s.pc.setWidth 12)) (s.readByte ((s.pc + 1).setWidth 12))

/-- The state after a fetch: `opcode` holds the word and `pc` has moved past it, before dispatch (R52). -/
def State.fetched (s : State) : State := (s.setOpcode s.wordAtPc).setPc (s.pc + 2)

/-- Store a word where the next fetch reads it. -/
def State.storeWordAtPc (s : State) (w : Word) : State :=
  (s.writeByte (s.pc.setWidth 12) (highByte w)).writeByte ((s.pc + 1).setWidth 12) (lowByte w)

/-! ### Faults (R140, R148) -/

/-- The ONE way an instruction or dispatch raises a fault: the cycle ends with the report of the fetched word and the
address it was fetched from, `pc - 2` after fetch (R140, R141; 90_conflicts C11). Nothing is saved and control goes
nowhere (R148). -/
def raiseAt (report : Word → Word → Fault) (s : State) : Result := .fault (report s.opcode (s.pc - 2))

/-- Fetch's own fault, which reports `pc` (R144). -/
def raiseFetch (s : State) : Result := .fault (.fetchOutOfRange s.pc)

/-- The state the host finds when a cycle that began in `s` has reported a fault (R148): unchanged after
`FetchOutOfRange`, otherwise as fetch left it (decision D17, log entry 8). -/
def State.stateAtReport (s : State) : State := if s.canFetch then s.fetched else s

/-- The numeric code of a fault (R140, decision D17). -/
def faultCode : Fault → Nat
  | .unknownInstruction _ _ => 1
  | .stackOverflow _ _ => 2
  | .stackUnderflow _ _ => 3
  | .fetchOutOfRange _ => 4
  | .keypadIndexOutOfRange _ _ _ => 5

end Sys2Proof.Machine
end

