-- ==== Sys2Proof/Machine/Operands.lean ====
section
/-! DEFINITION. Every operand form: data addresses, the indexed jump target, the glyph address, decimal digits, the
sprite position, and the registers `V0..Vx` (spec/30_encoding.md R57, spec/42_index_memory.md R116). -/

namespace Sys2Proof.Machine

/-- `ea(I + i) = (I + i) mod 4096`, the one data addressing mode (R36, R116). -/
def ea (i : Word) (offset : Nat) : Address := BitVec.ofNat 12 (i.toNat + offset)

/-- The target of `Bnnn`: `(nnn + V[0]) mod 4096` (R77, decision D4, log entry 11). -/
def indexedTarget (nnn : Address) (b : Byte) : Address := nnn + b.setWidth 12

/-- The address of the glyph of a digit: `0x050 + 5 * V[x]`, for the whole byte (R112, decision D13, log entry 19). -/
def glyphAddress (b : Byte) : Address := BitVec.ofNat 12 (Config.fontStart + Config.glyphBytes * b.toNat)

/-- `v div 100` (R113). -/
def hundreds (b : Byte) : Byte := BitVec.ofNat 8 (b.toNat / 100)

/-- `(v div 10) mod 10` (R113). -/
def tens (b : Byte) : Byte := BitVec.ofNat 8 (b.toNat / 10 % 10)

/-- `v mod 10` (R113). -/
def ones (b : Byte) : Byte := BitVec.ofNat 8 (b.toNat % 10)

/-- The column of a sprite's left edge, `V[x] mod 64` (R121). -/
def startColumn (b : Byte) : Nat := b.toNat % Config.videoW

/-- The row of a sprite's top edge, `V[y] mod 32` (R121). -/
def startRow (b : Byte) : Nat := b.toNat % Config.videoH

/-- The sixteen registers in rising order. -/
def allRegs : List Reg := [0, 1, 2, 3, 4, 5, 6, 7, 8, 9, 10, 11, 12, 13, 14, 15]

/-- `V0..Vx`, inclusive and ascending (R114, R115). -/
def regsUpTo (x : Reg) : List Reg := allRegs.take (x.val + 1)

end Sys2Proof.Machine
end

