-- ==== Sys2Proof/Machine/ControlFlow.lean ====
section
/-! DEFINITION. Return, jump, call, skips and the indexed jump (spec/40_control_flow.md). `s` is the state after fetch:
`s.pc` is the address of the instruction plus 2 (R7). -/

namespace Sys2Proof.Machine

/-- `00EE` RET (R70). -/
def execRet (s : State) : Result :=
  if s.sp = 0 then raiseAt .stackUnderflow s else .next (s.dropTop.setPc s.topOfStack)

/-- `1nnn` JP (R71). -/
def execJp (nnn : Address) (s : State) : Result := .next (s.setPc (nnn.setWidth 16))

/-- `2nnn` CALL (R72): pushes the address after the CALL, 16 bits unmasked. -/
def execCall (nnn : Address) (s : State) : Result :=
  if h : s.sp.val < 16 then .next ((s.push s.pc h).setPc (nnn.setWidth 16)) else raiseAt .stackOverflow s

/-- `3xkk` SE Vx, kk (R73). -/
def execSeImm (x : Reg) (kk : Byte) (s : State) : Result := .next (s.skipIf (s.getV x == kk))

/-- `4xkk` SNE Vx, kk (R74). -/
def execSneImm (x : Reg) (kk : Byte) (s : State) : Result := .next (s.skipIf (s.getV x != kk))

/-- `5xy0` SE Vx, Vy (R75). -/
def execSeReg (x y : Reg) (s : State) : Result := .next (s.skipIf (s.getV x == s.getV y))

/-- `9xy0` SNE Vx, Vy (R76). -/
def execSneReg (x y : Reg) (s : State) : Result := .next (s.skipIf (s.getV x != s.getV y))

/-- `Bnnn` JP V0, nnn (R77). -/
def execJpV0 (nnn : Address) (s : State) : Result :=
  .next (s.setPc ((indexedTarget nnn (s.getV 0)).setWidth 16))

end Sys2Proof.Machine
end

