-- ==== Sys2Proof/Machine/Flags.lean ====
section
/-! DEFINITION. The one flag, `VF` (spec/10_state.md R12): every value an instruction writes to it as a flag, a full
byte `0x00` or `0x01`. -/

namespace Sys2Proof.Machine

/-- A flag as the byte `VF` receives: `0x01` or `0x00` (R12). -/
def flagByte (b : Bool) : Byte := if b then 1 else 0

/-- Carry of `8xy4`: the sum exceeds 255 (R96). -/
def carryFlag (a b : Byte) : Byte := flagByte (decide (255 < a.toNat + b.toNat))

/-- Flag of `8xy5` and `8xy7`: strictly greater, equal operands give 0 (R97, R99). -/
def greaterFlag (a b : Byte) : Byte := flagByte (decide (b.toNat < a.toNat))

/-- Flag of `8xy6`: the bit shifted out, bit 0 (R98). -/
def lowBitFlag (a : Byte) : Byte := a &&& 1

/-- Flag of `8xyE`: the bit shifted out, bit 7 (R100). -/
def highBitFlag (a : Byte) : Byte := flagByte (decide (a &&& 0x80 ≠ 0))

/-- `VF <- f` (R12). -/
def State.setFlag (s : State) (f : Byte) : State := s.setV vf f

end Sys2Proof.Machine
end

