-- ==== Sys2Proof/Machine/Display.lean ====
section
/-! DEFINITION. Clear screen and draw sprite (spec/43_display.md). Bit 7 of a sprite byte is the leftmost pixel and
sprite rows go down (decision D8, log entry 15); the position is read before `VF` is written (decision D7, log
entry 14). -/

namespace Sys2Proof.Machine

/-- `00E0` CLS (R120). -/
def execCls (s : State) : Result := .next (s.setVideo blankVideo)

/-- One set sprite bit on a cell: `VF <- 1` if the cell is on, then the cell is XORed with 1 (R121). -/
def drawCell (s : State) (c : VideoCell) : State :=
  (if s.pixel c then s.setFlag (flagByte true) else s).flipPixel c

/-- Sprite column `k` of a row whose byte is `b`: drawn when bit `7 - k` is set (R121, decision D8). -/
def drawColumn (px py : Nat) (b : Byte) (s : State) (k : Nat) : State :=
  if b.getLsbD (7 - k) then drawCell s (cellAt (px + k) py) else s

/-- Sprite row `r`: its byte is at `ea(I + r)`, its eight columns in rising order (R121). -/
def drawRow (px py : Nat) (s : State) (r : Nat) : State :=
  (List.range 8).foldl (drawColumn px (py + r) (s.readByte (ea s.i r))) s

/-- `Dxyn` DRW Vx, Vy, n (R121). -/
def execDrw (x y : Reg) (n : RowCount) (s : State) : Result :=
  let px := startColumn (s.getV x)
  let py := startRow (s.getV y)
  .next ((List.range n.val).foldl (drawRow px py) (s.setFlag (flagByte false)))

end Sys2Proof.Machine
end

