-- ==== Sys2Proof/Machine/IndexMemory.lean ====
section
/-! DEFINITION. Index-register and memory instructions (spec/42_index_memory.md). None of them changes `I` but the
three that load it (R116). -/

namespace Sys2Proof.Machine

/-- `Annn` LD I, nnn (R110). -/
def execLdI (nnn : Address) (s : State) : Result := .next (s.setI nnn)

/-- `Fx1E` ADD I, Vx (R111): modulo 4096, no flag. -/
def execAddI (x : Reg) (s : State) : Result := .next (s.setI (ea s.i (s.getV x).toNat))

/-- `Fx29` LD F, Vx (R112). -/
def execLdF (x : Reg) (s : State) : Result := .next (s.setI (glyphAddress (s.getV x)))

/-- `Fx33` LD B, Vx (R113): hundreds, tens, ones at `I`, `I + 1`, `I + 2`. -/
def execLdB (x : Reg) (s : State) : Result :=
  let b := s.getV x
  .next (((s.writeByte (ea s.i 0) (hundreds b)).writeByte (ea s.i 1) (tens b)).writeByte (ea s.i 2) (ones b))

/-- One iteration of `Fx55`: `MemWrite(ea(I + i), 1, V[i])` (R114). -/
def storeReg (s : State) (r : Reg) : State := s.writeByte (ea s.i r.val) (s.getV r)

/-- `Fx55` LD [I], Vx (R114). -/
def execLdMemVx (x : Reg) (s : State) : Result := .next ((regsUpTo x).foldl storeReg s)

/-- One iteration of `Fx65`: `V[i] <- MemRead(ea(I + i), 1)` (R115). -/
def loadReg (s : State) (r : Reg) : State := s.setV r (s.readByte (ea s.i r.val))

/-- `Fx65` LD Vx, [I] (R115). -/
def execLdVxMem (x : Reg) (s : State) : Result := .next ((regsUpTo x).foldl loadReg s)

end Sys2Proof.Machine
end

