-- ==== Sys2Proof/Machine/KeypadTimers.lean ====
section
/-! DEFINITION. Keypad and timer instructions (spec/44_keypad_timers.md). -/

namespace Sys2Proof.Machine

/-- The key named by the VALUE of `V[x]`, tested with `want`; there are 16 keys, and a greater value is a fault (R130,
R131, R145, decision D11, log entry 17). -/
def skipOnKey (want : Bool) (x : Reg) (s : State) : Result :=
  if h : (s.getV x).toNat < 16 then .next (s.skipIf (keyPressed s.keys ⟨(s.getV x).toNat, h⟩ == want))
  else raiseAt (fun word addr => .keypadIndexOutOfRange word addr (s.getV x)) s

/-- `Ex9E` SKP Vx (R130). -/
def execSkp (x : Reg) (s : State) : Result := skipOnKey true x s

/-- `ExA1` SKNP Vx (R131). -/
def execSknp (x : Reg) (s : State) : Result := skipOnKey false x s

/-- `Fx07` LD Vx, DT (R132). -/
def execLdVxDt (x : Reg) (s : State) : Result := .next (s.setV x s.dt)

/-- `Fx0A` LD Vx, K (R133): with no key pressed the fetch advance is undone and the cycle is held; otherwise a pressed
key's number is loaded. Level-sensitive (decision D12, log entry 18). -/
def execLdVxK (x : Reg) (s : State) : Result :=
  match selectKey s.keys with
  | none => .next (s.setPc (s.pc - 2))
  | some k => .next (s.setV x (BitVec.ofNat 8 k.val))

/-- `Fx15` LD DT, Vx (R134). -/
def execLdDtVx (x : Reg) (s : State) : Result := .next (s.setDt (s.getV x))

/-- `Fx18` LD ST, Vx (R135). -/
def execLdStVx (x : Reg) (s : State) : Result := .next (s.setSt (s.getV x))

end Sys2Proof.Machine
end

