-- ==== Sys2Proof/Machine/LoadAlu.lean ====
section
/-! DEFINITION. Register load, arithmetic, logic, shift and random instructions (spec/41_load_alu.md). The five
flag-setting instructions run as the spec writes them: the flag first, then the result, whose operands are read again
from the state the flag write left, but for `8xy4`, which adds the old operands (R102, decision D6, log entry 13). -/

namespace Sys2Proof.Machine

/-- `6xkk` LD Vx, kk (R90). -/
def execLdImm (x : Reg) (kk : Byte) (s : State) : Result := .next (s.setV x kk)

/-- `7xkk` ADD Vx, kk (R91): modulo 256, no flag. -/
def execAddImm (x : Reg) (kk : Byte) (s : State) : Result := .next (s.setV x (s.getV x + kk))

/-- `8xy0` LD Vx, Vy (R92). -/
def execLdReg (x y : Reg) (s : State) : Result := .next (s.setV x (s.getV y))

/-- `8xy1` OR Vx, Vy (R93): no flag. -/
def execOrReg (x y : Reg) (s : State) : Result := .next (s.setV x (s.getV x ||| s.getV y))

/-- `8xy2` AND Vx, Vy (R94): no flag. -/
def execAndReg (x y : Reg) (s : State) : Result := .next (s.setV x (s.getV x &&& s.getV y))

/-- `8xy3` XOR Vx, Vy (R95): no flag. -/
def execXorReg (x y : Reg) (s : State) : Result := .next (s.setV x (s.getV x ^^^ s.getV y))

/-- `8xy4` ADD Vx, Vy (R96): the sum is taken before the flag is written. -/
def execAddReg (x y : Reg) (s : State) : Result :=
  let sum := s.getV x + s.getV y
  .next ((s.setFlag (carryFlag (s.getV x) (s.getV y))).setV x sum)

/-- `8xy5` SUB Vx, Vy (R97): the result reads `V[x]` and `V[y]` after the flag write. -/
def execSub (x y : Reg) (s : State) : Result :=
  let t := s.setFlag (greaterFlag (s.getV x) (s.getV y))
  .next (t.setV x (t.getV x - t.getV y))

/-- `8xy6` SHR Vx (R98); `y` is ignored (R61). -/
def execShr (x _y : Reg) (s : State) : Result :=
  let t := s.setFlag (lowBitFlag (s.getV x))
  .next (t.setV x (t.getV x >>> 1))

/-- `8xy7` SUBN Vx, Vy (R99): the result reads `V[y]` and `V[x]` after the flag write. -/
def execSubn (x y : Reg) (s : State) : Result :=
  let t := s.setFlag (greaterFlag (s.getV y) (s.getV x))
  .next (t.setV x (t.getV y - t.getV x))

/-- `8xyE` SHL Vx (R100); `y` is ignored (R61). -/
def execShl (x _y : Reg) (s : State) : Result :=
  let t := s.setFlag (highBitFlag (s.getV x))
  .next (t.setV x (t.getV x <<< 1))

/-- `Cxkk` RND Vx, kk (R103): a free byte masked with `kk`. -/
def execRnd (x : Reg) (kk : Byte) (s : State) : Result := .next ((s.setV x (s.drawnByte &&& kk)).countDraw)

end Sys2Proof.Machine
end

