-- ==== Sys2Proof/Machine/Step.lean ====
section
/-! DEFINITION. One step of the machine is one `cycle()`: fetch, decode, dispatch, execute (spec/30_encoding.md R51).
It never touches the timers or the keypad, which are the host's (R51, R136). -/

namespace Sys2Proof.Machine

/-- Decode, dispatch and execute in the state fetch left (R53 to R55). -/
def runFetched (s : State) : Host.Outcome State Fault Refusal :=
  match decodeWord s.opcode with
  | some i => exec i s
  | none => raiseAt .unknownInstruction s

/-- One cycle (R51, R52): the fetch check first, then fetch, then the fetched instruction (R147). -/
def step (s : State) : Host.Outcome State Fault Refusal :=
  if s.canFetch then runFetched s.fetched else raiseFetch s

/-- The state with an instruction word of `nbits` bits stored where `step` fetches next, `pc` and `pc + 1`, high byte
first (R34). It stands for the host's `load` of that instruction (log entry 20). -/
def State.withFetchWord (s : State) (nbits w : Nat) : State := s.storeWordAtPc (BitVec.ofNat 16 (w % 2 ^ nbits))

end Sys2Proof.Machine
end

