-- ==== Sys2Proof/Machine/Session.lean ====
section
/-! DEFINITION. The host's side: the outcome of a cycle with the state the host finds (spec/30_encoding.md R51,
spec/60_exceptions.md R148), the host's operations and reads (R152, R154, spec/70_reset_and_hazards.md R160, R162),
and a run as a sequence of operations (R158), which a fault ends until `reset` (R149). -/

namespace Sys2Proof.Machine

/-! ### The outcome of a cycle (R51) -/

inductive CycleReport where
  /-- The state is the instruction's result. -/
  | completed
  /-- `Fx0A` with no key pressed: only `opcode` has changed (R133). -/
  | held
  /-- A fault (R140). -/
  | fault (f : Fault)
  /-- No meaning: raised by no instruction. -/
  | refused (r : Refusal)
  deriving DecidableEq, Repr

/-- The cycle that begins in `s` is held: it fetches an `Fx0A` and no key is pressed (R51, R133). -/
def isHeld (s : State) : Bool :=
  match decodeWord s.wordAtPc with
  | some (.ldVxK _) => (pressedKeys s.keys).isEmpty
  | _ => false

/-- `cycle()` (R51): the state the host finds afterwards and the outcome; after a fault the state of R148. -/
def cycle (s : State) : State × CycleReport :=
  match step s with
  | .next t => (t, if isHeld s then .held else .completed)
  | .fault f => (s.stateAtReport, .fault f)
  | .refused r => (s.stateAtReport, .refused r)

/-! ### The other host operations (R154) -/

/-- `tick()` on one timer: one less, floored at 0 (R152). -/
def tickDown (b : Byte) : Byte := if b = 0 then 0 else b - 1

/-- `tick()`: both timers, independently (R152). -/
def tick (s : State) : State := (s.setDt (tickDown s.dt)).setSt (tickDown s.st)

/-- The length of a rejected image, `LoadError` (R146), code L1. -/
structure LoadError where
  length : Nat
  deriving DecidableEq, Repr

/-- `load(bytes)` (R162): an image of more than 3584 bytes is rejected whole (90_conflicts C3), any other is copied
verbatim from `0x200` upward; nothing else changes (R165). -/
def load (bytes : List Byte) (s : State) : Except LoadError State :=
  if bytes.length ≤ Config.progMaxBytes then .ok { s with mem := memWriteList s.mem Config.progStart bytes }
  else .error ⟨bytes.length⟩

/-- A keypad the host gives as bytes: any byte but 0 means pressed (R20, decision D11). -/
def keypadOfBytes (flags : Vector Byte 16) : Vector Bool 16 := flags.map (fun b => b != 0)

/-- The host's write of the keypad (R136, R154). -/
def writeKeypad (flags : Vector Byte 16) (s : State) : State := s.setKeys (keypadOfBytes flags)

/-- Video read: the cell at column `px`, row `py` (R22, R123). -/
def videoAt (s : State) (px py : Nat) : Bool := s.pixel (cellAt px py)

/-- Sound read: the host emits a tone while `ST` is not 0 (R19, R154). -/
def soundOn (s : State) : Bool := s.st != 0

/-- `reset()` of a machine in state `s` (R160): the state of R27. The random source is process-wide, seeded once at
startup and no part of the machine (R24, R103), so a reset does not take it back: the count of drawn bytes goes on
(log entry 6). -/
def resetFrom (s : State) : State := { State.reset with draws := s.draws }

/-! ### A run (R158) -/

inductive HostOp where
  | reset
  | load (bytes : List Byte)
  | cycle
  | tick
  | writeKeypad (flags : Vector Byte 16)
  deriving DecidableEq, Repr

inductive HostReply where
  /-- The operation gives nothing back. -/
  | done
  | loadError (e : LoadError)
  | cycle (r : CycleReport)
  /-- The run has ended in a fault and has no continuation (R149). -/
  | ended (f : Fault)
  deriving DecidableEq, Repr

/-- A run: the machine, and the fault that ended the run if one did. The fault is the host's record, not a latch in the
machine (R148). -/
structure Session where
  machine : State
  ended : Option Fault
  deriving DecidableEq, Repr

/-- The first machine of a process (R160), before any byte is drawn. -/
def Session.fresh : Session := ⟨State.reset, none⟩

/-- What the host records of a cycle: a fault ends the run (R149). -/
def CycleReport.faultOf : CycleReport → Option Fault
  | .fault f => some f
  | _ => none

/-- An operation on a run that no fault has ended (R154, R158). -/
def performRunning (op : HostOp) (s : State) : Session × HostReply :=
  match op with
  | .reset => (⟨resetFrom s, none⟩, .done)
  | .load bytes =>
    match load bytes s with
    | .ok t => (⟨t, none⟩, .done)
    | .error e => (⟨s, none⟩, .loadError e)
  | .cycle => (⟨(cycle s).1, (cycle s).2.faultOf⟩, .cycle (cycle s).2)
  | .tick => (⟨tick s, none⟩, .done)
  | .writeKeypad flags => (⟨writeKeypad flags s, none⟩, .done)

/-- One host operation (R158). After a fault only `reset` has a result: the fault is kept and nothing else happens
(R149, log entry 21). -/
def perform (op : HostOp) (r : Session) : Session × HostReply :=
  match r.ended, op with
  | some _, .reset => (⟨resetFrom r.machine, none⟩, .done)
  | some f, _ => (r, .ended f)
  | none, op => performRunning op r.machine

/-- A sequence of host operations, in the order the host chooses (R158). -/
def runOps (ops : List HostOp) (r : Session) : Session := ops.foldl (fun q op => (perform op q).1) r

end Sys2Proof.Machine
end

