-- ==== Sys2Proof/Safety.lean ====
section
/-! DEFINITION. The terms claims use: the invariants of spec/10_state.md R25, what an instruction leaves unchanged
(spec/00_scope.md R8), and the end of a run (spec/70_reset_and_hazards.md R170). -/

namespace Sys2Proof

open Sys2Proof.Machine

/-- The well-formed states (R25): memory in canonical form, `I` within 12 bits, `pc` at most `0x1002`, and every held
return address one a CALL can push. The other items of R25 hold by the types of the fields. -/
abbrev WfState (s : State) : Prop :=
  memWf s.mem = true ∧ s.i.toNat ≤ 0xFFF ∧ s.pc.toNat ≤ 0x1002 ∧
    ∀ j : Fin 16, j.val < s.sp.val → 0x202 ≤ s.stack[j.val].toNat ∧ s.stack[j.val].toNat ≤ 0x1000

/-- What may differ between two states, for frames (R8): the registers and memory cells named, and the parts whose flag
is true. -/
structure Touched where
  regs  : List Reg := []
  cells : List Address := []
  index : Bool := false
  pc    : Bool := false
  stack : Bool := false
  sp    : Bool := false
  dt    : Bool := false
  st    : Bool := false
  video : Bool := false
  draws : Bool := false
  deriving DecidableEq, Repr

/-- `t` differs from `s` at most in what `w` names (R8). Neither the keypad nor `opcode` is ever touched by the execute
step (R136, R23). -/
def ChangesOnly (w : Touched) (s t : State) : Prop :=
  (∀ r : Reg, r ∉ w.regs → t.getV r = s.getV r) ∧
  (∀ a : Address, a ∉ w.cells → t.readByte a = s.readByte a) ∧
  (w.index = false → t.i = s.i) ∧
  (w.pc = false → t.pc = s.pc) ∧
  (w.stack = false → t.stack = s.stack) ∧
  (w.sp = false → t.sp = s.sp) ∧
  (w.dt = false → t.dt = s.dt) ∧
  (w.st = false → t.st = s.st) ∧
  (w.video = false → t.video = s.video) ∧
  (w.draws = false → t.draws = s.draws) ∧
  t.keys = s.keys ∧ t.opcode = s.opcode

/-- The same outcome with a next state changed by `f`: used to say that a part of the state is neither read nor
written. -/
def mapNext (f : State → State) : Result → Result
  | .next t => .next (f t)
  | .fault e => .fault e
  | .refused e => .refused e

/-- The program is finished: `pc` is at an instruction `1nnn` that jumps to its own address (R170, decision D20, log
entry 24). -/
def Finished (s : State) : Prop :=
  s.canFetch = true ∧ s.wordAtPc = 0x1000#16 ||| s.pc

/-- A step is safe when it faults on nothing and refuses nothing. -/
def SafeStep (s : State) : Prop := ∃ t, step s = .next t

/-- A sprite pixel: row `r`, column `k` of an `n`-row sprite at `I` is set (R121). -/
def SpriteBit (s : State) (n : RowCount) (r k : Nat) : Prop :=
  r < n.val ∧ k < 8 ∧ (s.readByte (ea s.i r)).getLsbD (7 - k) = true

/-- Cell `c` is covered by a set bit of the sprite `Dxyn` draws (R121, R122). -/
def Covered (s : State) (x y : Reg) (n : RowCount) (c : VideoCell) : Prop :=
  ∃ r k, SpriteBit s n r k ∧ c = cellAt (startColumn (s.getV x) + k) (startRow (s.getV y) + r)

end Sys2Proof
end

