-- ==== Sys2Proof/Certificates/Slice0/Obligations.lean ====
section
/-! DEFINITION. The statements for the provers. Each docstring names the rule of spec/ it formalises, or, where it rests
on a decision the spec marks as its own or on a choice of the model, that decision and its log entry. `s` in a statement
about `exec` is the state after fetch, so `s.pc` is the address of the instruction plus 2 (spec/00_scope.md R7). -/

open Sys2Proof Sys2Proof.Machine

/-! ### Reset -/

/-- The reset values the source states (10_state.md R27, R160); `sp` is the spec's derivation (log entry 5). -/
def Obligations.ResetLeavesTheStatedValues : Prop :=
  (∀ a : Address, a.toNat < 0x050 ∨ 0x0A0 ≤ a.toNat → State.reset.readByte a = 0) ∧
  (∀ r : Reg, State.reset.getV r = 0) ∧ State.reset.pc.toNat = 0x200 ∧
  (∀ j : Fin 16, State.reset.stack[j.val] = 0) ∧ State.reset.sp.val = 0 ∧
  State.reset.dt = 0 ∧ State.reset.st = 0 ∧ ∀ c : VideoCell, State.reset.pixel c = false

/-- THE MODEL'S CHOICE, after the spec's recommended defaults (decisions D14, D15; log entries 1 to 4): glyph `d` of
the font is at `0x050 + 5*d`, `I` and `opcode` are 0, no key is pressed. -/
def Obligations.ResetLeavesTheChosenValues : Prop :=
  (∀ (d : Fin 16) (j : Fin 5),
    State.reset.readByte (glyphAddress (BitVec.ofNat 8 d.val) + BitVec.ofNat 12 j.val) = font.getD (5 * d.val + j.val) 0) ∧
  State.reset.i = 0 ∧ State.reset.opcode = 0 ∧ ∀ k : Key, keyPressed State.reset.keys k = false

/-- 70_reset_and_hazards.md R161, 60_exceptions.md R141: zero-filled memory is an unknown instruction, on a fresh
machine and wherever `pc` runs into it (decision D1, log entry 10, for `0x0000`; D3, log entry 9, for the range). -/
def Obligations.ZeroMemoryIsUnknownInstruction : Prop :=
  step State.reset = .fault (.unknownInstruction 0 0x200) ∧
  ∀ s : State, 0x200 ≤ s.pc.toNat → s.pc.toNat ≤ 0xFFE → s.readByte (s.pc.setWidth 12) = 0 →
    s.readByte ((s.pc + 1).setWidth 12) = 0 → step s = .fault (.unknownInstruction 0 s.pc)

/-! ### Invariants -/

/-- 10_state.md R25 at reset. -/
def Obligations.InvariantHoldsAtReset : Prop := WfState State.reset

/-- 10_state.md R25: every step keeps it, from every state that has it. -/
def Obligations.EveryStepKeepsInvariant : Prop := ∀ s t : State, WfState s → step s = .next t → WfState t

/-- 10_state.md R25 for the host's operations, a cycle that faults included. -/
def Obligations.EveryHostOperationKeepsInvariant : Prop :=
  ∀ (op : HostOp) (r : Session), WfState r.machine → WfState (perform op r).1.machine

/-- The canonical form of main memory: two canonical memories that read alike are the same list. -/
def Obligations.CanonicalMemoriesThatReadAlikeAreEqual : Prop :=
  ∀ m n : Memory, memWf m = true → memWf n = true → (∀ a : Nat, a < 4096 → memRead m a = memRead n a) → m = n

/-! ### The cycle -/

/-- 30_encoding.md R51, R52, 20_memory.md R34: in range, a step fetches two bytes big-endian, moves `pc` by 2, and is
`exec` of the decoded instruction in the state so left, in which nothing else differs. -/
def Obligations.StepRunsTheDecodedInstruction : Prop :=
  ∀ (s : State) (i : Instr), 0x200 ≤ s.pc.toNat → s.pc.toNat ≤ 0xFFE →
    decodeWord (s.readByte (s.pc.setWidth 12) ++ s.readByte ((s.pc + 1).setWidth 12)) = some i →
    step s = exec i s.fetched ∧
    s.fetched = { s with
      opcode := s.readByte (s.pc.setWidth 12) ++ s.readByte ((s.pc + 1).setWidth 12), pc := s.pc + 2 } ∧
    s.fetched.opcode.toNat =
      (s.readByte (s.pc.setWidth 12)).toNat * 256 + (s.readByte ((s.pc + 1).setWidth 12)).toNat

/-- 60_exceptions.md R144 (decision D3, log entry 9): a fetch outside `0x200..0xFFE` faults and changes nothing. -/
def Obligations.FetchOutOfRangeFaults : Prop :=
  ∀ s : State, s.pc.toNat < 0x200 ∨ 0xFFE < s.pc.toNat →
    step s = .fault (.fetchOutOfRange s.pc) ∧ cycle s = (s, .fault (.fetchOutOfRange s.pc))

/-- 60_exceptions.md R141: a word that matches no row faults after fetch, with the word and its address. -/
def Obligations.UnknownWordFaults : Prop :=
  ∀ (s : State) (w : Word), 0x200 ≤ s.pc.toNat → s.pc.toNat ≤ 0xFFE →
    s.readByte (s.pc.setWidth 12) ++ s.readByte ((s.pc + 1).setWidth 12) = w → wellFormedWord w = false →
    step s = .fault (.unknownInstruction w s.pc) ∧
    cycle s = ({ s with opcode := w, pc := s.pc + 2 }, .fault (.unknownInstruction w s.pc))

/-- 60_exceptions.md R140, R147 (decisions D3, D11, D17): exactly when a step faults, with what report; the fetch check
comes first, then dispatch, then the one check of the instruction. -/
def Obligations.FaultsHaveExactlyTheseCauses : Prop :=
  ∀ (s : State) (f : Fault), step s = .fault f ↔
    (s.canFetch = false ∧ f = .fetchOutOfRange s.pc) ∨
    (s.canFetch = true ∧
      ((decodeWord s.wordAtPc = none ∧ f = .unknownInstruction s.wordAtPc s.pc) ∨
       (decodeWord s.wordAtPc = some .ret ∧ s.sp.val = 0 ∧ f = .stackUnderflow s.wordAtPc s.pc) ∨
       (∃ nnn, decodeWord s.wordAtPc = some (.call nnn) ∧ s.sp.val = 16 ∧ f = .stackOverflow s.wordAtPc s.pc) ∨
       (∃ x, (decodeWord s.wordAtPc = some (.skp x) ∨ decodeWord s.wordAtPc = some (.sknp x)) ∧
         15 < (s.getV x).toNat ∧ f = .keypadIndexOutOfRange s.wordAtPc s.pc (s.getV x))))

/-- 60_exceptions.md R148 (decision D17, log entry 8): a fault leaves the state of before the cycle, or that state with
`opcode` and `pc` as fetch left them, and never a part of the instruction's effect. -/
def Obligations.FaultLeavesOnlyTheFetch : Prop :=
  ∀ (s : State) (f : Fault), (cycle s).2 = .fault f →
    ((∃ p, f = .fetchOutOfRange p) → (cycle s).1 = s) ∧
    ((∀ p, f ≠ .fetchOutOfRange p) → (cycle s).1 = { s with opcode := s.wordAtPc, pc := s.pc + 2 })

/-- 30_encoding.md R55: dispatch routes every instruction to a meaning, so no step is refused. -/
def Obligations.NoStepIsRefused : Prop := ∀ (s : State) (r : Refusal), step s ≠ .refused r

/-- 10_state.md R23, R20, R18: after a completed cycle `opcode` holds the fetched word, the keypad is as the host left
it, and `DT` has changed only by `Fx15`. -/
def Obligations.StepLatchesOpcodeAndKeepsInputs : Prop :=
  ∀ s t : State, step s = .next t →
    t.opcode = s.wordAtPc ∧ t.keys = s.keys ∧
    ((∀ x, decodeWord s.wordAtPc ≠ some (.ldDtVx x)) → t.dt = s.dt)

/-! ### Encoding -/

/-- 30_encoding.md R56, R58: no operand bit is lost. -/
def Obligations.DecodeOfEncodeIsTheInstruction : Prop := ∀ i : Instr, decodeWord (encode i) = some i

/-- 30_encoding.md R55, R58: a word is the encoding of the one instruction it decodes to. -/
def Obligations.EncodeOfDecodeIsTheWord : Prop := ∀ (w : Word) (i : Instr), decodeWord w = some i → encode i = w

/-- 30_encoding.md R55, R58: a word decodes exactly when a row of the opcode map selects it, to an instruction of that
row, and no two rows select one word. -/
def Obligations.WordsDecodeByExactlyOneRow : Prop :=
  (∀ w : Word, (decodeWord w).isSome = wellFormedWord w) ∧
  (∀ (w : Word) (i : Instr), decodeWord w = some i → i.row ∈ opcodeTable ∧ i.row.selects w = true) ∧
  ∀ (w : Word) (p q : OpcodeRow), p ∈ opcodeTable → q ∈ opcodeTable → p.selects w = true → q.selects w = true → p = q

/-- 30_encoding.md R54, R59 (decisions D1, D2, log entry 10): exactly which words are unknown. -/
def Obligations.UnknownWordsByFamily : Prop :=
  ∀ w : Word, decodeWord w = none ↔
    (nib3 w = 0x0 ∧ w ≠ 0x00E0 ∧ w ≠ 0x00EE) ∨ (nib3 w = 0x5 ∧ nib0 w ≠ 0x0) ∨
    (nib3 w = 0x8 ∧ nib0 w ∈ [0x8#4, 0x9#4, 0xA#4, 0xB#4, 0xC#4, 0xD#4, 0xF#4]) ∨ (nib3 w = 0x9 ∧ nib0 w ≠ 0x0) ∨
    (nib3 w = 0xE ∧ fieldKK w ∉ [0x9E#8, 0xA1#8]) ∨
    (nib3 w = 0xF ∧ fieldKK w ∉ [0x07#8, 0x0A#8, 0x15#8, 0x18#8, 0x1E#8, 0x29#8, 0x33#8, 0x55#8, 0x65#8])

/-- 30_encoding.md R53: ten families hold one instruction each, selected by N3 alone, and every word of them is one. -/
def Obligations.SingleInstructionFamilies : Prop :=
  ∀ w : Word,
    (nib3 w = 0x1 → decodeWord w = some (.jp (fieldNNN w))) ∧
    (nib3 w = 0x2 → decodeWord w = some (.call (fieldNNN w))) ∧
    (nib3 w = 0x3 → decodeWord w = some (.seImm (fieldX w) (fieldKK w))) ∧
    (nib3 w = 0x4 → decodeWord w = some (.sneImm (fieldX w) (fieldKK w))) ∧
    (nib3 w = 0x6 → decodeWord w = some (.ldImm (fieldX w) (fieldKK w))) ∧
    (nib3 w = 0x7 → decodeWord w = some (.addImm (fieldX w) (fieldKK w))) ∧
    (nib3 w = 0xA → decodeWord w = some (.ldI (fieldNNN w))) ∧
    (nib3 w = 0xB → decodeWord w = some (.jpV0 (fieldNNN w))) ∧
    (nib3 w = 0xC → decodeWord w = some (.rnd (fieldX w) (fieldKK w))) ∧
    (nib3 w = 0xD → decodeWord w = some (.drw (fieldX w) (fieldY w) (fieldN w)))

/-- 00_scope.md R6: the field formulas, and that they are the nibbles named. -/
def Obligations.OperandFieldsAreTheMaskedBits : Prop :=
  ∀ w : Word,
    (fieldX w).val = ((w &&& 0x0F00#16) >>> 8).toNat ∧ (fieldY w).val = ((w &&& 0x00F0#16) >>> 4).toNat ∧
    (fieldKK w).toNat = (w &&& 0x00FF#16).toNat ∧ (fieldNNN w).toNat = (w &&& 0x0FFF#16).toNat ∧
    (fieldN w).val = (w &&& 0x000F#16).toNat ∧
    (fieldKK w).toNat = 16 * (fieldY w).val + (fieldN w).val ∧
    (fieldNNN w).toNat = 256 * (fieldX w).val + 16 * (fieldY w).val + (fieldN w).val

/-- 95_test_vectors.md S0 and V-E: a few words written out from the formats, and a few unknown ones. -/
def Obligations.SampleWordsDecode : Prop :=
  decodeWord 0x00E0 = some .cls ∧ decodeWord 0x10E0 = some (.jp 0x0E0) ∧ decodeWord 0x5AB0 = some (.seReg 10 11) ∧
  decodeWord 0xD12F = some (.drw 1 2 15) ∧ decodeWord 0x83A6 = some (.shr 3 10) ∧ decodeWord 0xEAA1 = some (.sknp 10) ∧
  decodeWord 0xFA65 = some (.ldVxMem 10) ∧ decodeWord 0x0000 = none ∧ decodeWord 0x5AB1 = none ∧
  decodeWord 0x8AB8 = none ∧ decodeWord 0xFA30 = none

/-! ### Control flow -/

/-- 40_control_flow.md R70. -/
def Obligations.ReturnPopsTheStack : Prop :=
  decodeWord 0x00EE = some .ret ∧
  (∀ (s : State) (k : Fin 16), s.sp.val = k.val + 1 →
    ∃ t, exec .ret s = .next t ∧ t.sp.val = k.val ∧ t.pc = s.stack[k.val] ∧
      ChangesOnly { pc := true, sp := true } s t) ∧
  (∀ s : State, s.sp.val = 0 → exec .ret s = .fault (.stackUnderflow s.opcode (s.pc - 2))) ∧
  ∀ s : State, s.canFetch = true → s.wordAtPc = 0x00EE → s.sp.val = 0 →
    cycle s = ({ s with opcode := 0x00EE, pc := s.pc + 2 }, .fault (.stackUnderflow 0x00EE s.pc))

/-- 40_control_flow.md R72. -/
def Obligations.CallPushesTheReturnAddress : Prop :=
  (∀ nnn : Address, decodeWord (formA 0x2 nnn) = some (.call nnn)) ∧
  (∀ (s : State) (nnn : Address) (k : Fin 16), s.sp.val = k.val →
    ∃ t, exec (.call nnn) s = .next t ∧ t.stack[k.val] = s.pc ∧
      (∀ j : Fin 16, j ≠ k → t.stack[j.val] = s.stack[j.val]) ∧ t.sp.val = k.val + 1 ∧ t.pc.toNat = nnn.toNat ∧
      ChangesOnly { pc := true, stack := true, sp := true } s t) ∧
  (∀ (s : State) (nnn : Address), s.sp.val = 16 →
    exec (.call nnn) s = .fault (.stackOverflow s.opcode (s.pc - 2))) ∧
  ∀ (s : State) (nnn : Address), s.canFetch = true → s.wordAtPc = formA 0x2 nnn → s.sp.val = 16 →
    cycle s = ({ s with opcode := formA 0x2 nnn, pc := s.pc + 2 }, .fault (.stackOverflow (formA 0x2 nnn) s.pc))

/-- 95_test_vectors.md S5: a RET that finds the stack a CALL left continues after the CALL. -/
def Obligations.ReturnAfterCallContinuesAfterTheCall : Prop :=
  ∀ (s : State) (nnn : Address), s.sp.val < 16 →
    ∃ t, exec (.call nnn) s = .next t ∧ ∀ u : State, u.stack = t.stack → u.sp = t.sp →
      ∃ w, exec .ret u = .next w ∧ w.pc = s.pc ∧ w.sp = s.sp

/-- 40_control_flow.md R71, with the self-jump that changes nothing but `opcode`. -/
def Obligations.JumpSetsPc : Prop :=
  (∀ nnn : Address, decodeWord (formA 0x1 nnn) = some (.jp nnn)) ∧
  (∀ (s : State) (nnn : Address),
    ∃ t, exec (.jp nnn) s = .next t ∧ t.pc.toNat = nnn.toNat ∧ ChangesOnly { pc := true } s t) ∧
  ∀ s : State, s.canFetch = true → s.wordAtPc = formA 0x1 (s.pc.setWidth 12) →
    step s = .next { s with opcode := s.wordAtPc }

/-- 40_control_flow.md R77 (decision D4, log entry 11): the sum is reduced modulo 4096. -/
def Obligations.IndexedJumpAddsV0 : Prop :=
  (∀ nnn : Address, decodeWord (formA 0xB nnn) = some (.jpV0 nnn)) ∧
  ∀ (s : State) (nnn : Address),
    ∃ t, exec (.jpV0 nnn) s = .next t ∧ t.pc.toNat = (nnn.toNat + (s.getV 0).toNat) % 4096 ∧
      ChangesOnly { pc := true } s t

/-- 40_control_flow.md R73, R74. -/
def Obligations.SkipsOnImmediate : Prop :=
  (∀ (x : Reg) (kk : Byte), decodeWord (formXK 0x3 x kk) = some (.seImm x kk) ∧
    decodeWord (formXK 0x4 x kk) = some (.sneImm x kk)) ∧
  ∀ (s : State) (x : Reg) (kk : Byte),
    (∃ t, exec (.seImm x kk) s = .next t ∧ t.pc = (if s.getV x = kk then s.pc + 2 else s.pc) ∧
      ChangesOnly { pc := true } s t) ∧
    ∃ t, exec (.sneImm x kk) s = .next t ∧ t.pc = (if s.getV x = kk then s.pc else s.pc + 2) ∧
      ChangesOnly { pc := true } s t

/-- 40_control_flow.md R75, R76: the low nibble must be 0. -/
def Obligations.SkipsOnRegisters : Prop :=
  (∀ (x y : Reg) (n : BitVec 4),
    decodeWord (formXYN 0x5 x y n) = (if n = 0 then some (.seReg x y) else none) ∧
    decodeWord (formXYN 0x9 x y n) = (if n = 0 then some (.sneReg x y) else none)) ∧
  ∀ (s : State) (x y : Reg),
    (∃ t, exec (.seReg x y) s = .next t ∧ t.pc = (if s.getV x = s.getV y then s.pc + 2 else s.pc) ∧
      ChangesOnly { pc := true } s t) ∧
    ∃ t, exec (.sneReg x y) s = .next t ∧ t.pc = (if s.getV x = s.getV y then s.pc else s.pc + 2) ∧
      ChangesOnly { pc := true } s t

/-! ### Load, arithmetic, logic, shift, random -/

/-- 41_load_alu.md R90, R92. -/
def Obligations.LoadsCopyIntoTheRegister : Prop :=
  (∀ (x y : Reg) (kk : Byte), decodeWord (formXK 0x6 x kk) = some (.ldImm x kk) ∧
    decodeWord (formXYN 0x8 x y 0x0) = some (.ldReg x y)) ∧
  ∀ (s : State) (x y : Reg) (kk : Byte),
    (∃ t, exec (.ldImm x kk) s = .next t ∧ t.getV x = kk ∧ ChangesOnly { regs := [x] } s t) ∧
    ∃ t, exec (.ldReg x y) s = .next t ∧ t.getV x = s.getV y ∧ ChangesOnly { regs := [x] } s t

/-- 41_load_alu.md R91: modulo 256, no flag. -/
def Obligations.AddImmediateWrapsWithoutFlag : Prop :=
  (∀ (x : Reg) (kk : Byte), decodeWord (formXK 0x7 x kk) = some (.addImm x kk)) ∧
  ∀ (s : State) (x : Reg) (kk : Byte),
    ∃ t, exec (.addImm x kk) s = .next t ∧ (t.getV x).toNat = ((s.getV x).toNat + kk.toNat) % 256 ∧
      ChangesOnly { regs := [x] } s t

/-- 41_load_alu.md R93, R94, R95: bit by bit, no flag. -/
def Obligations.LogicIsBitwiseWithoutFlag : Prop :=
  (∀ x y : Reg, decodeWord (formXYN 0x8 x y 0x1) = some (.orReg x y) ∧
    decodeWord (formXYN 0x8 x y 0x2) = some (.andReg x y) ∧ decodeWord (formXYN 0x8 x y 0x3) = some (.xorReg x y)) ∧
  ∀ (s : State) (x y : Reg),
    (∃ t, exec (.orReg x y) s = .next t ∧ ChangesOnly { regs := [x] } s t ∧
      ∀ j : Nat, j < 8 → (t.getV x).getLsbD j = ((s.getV x).getLsbD j || (s.getV y).getLsbD j)) ∧
    (∃ t, exec (.andReg x y) s = .next t ∧ ChangesOnly { regs := [x] } s t ∧
      ∀ j : Nat, j < 8 → (t.getV x).getLsbD j = ((s.getV x).getLsbD j && (s.getV y).getLsbD j)) ∧
    ∃ t, exec (.xorReg x y) s = .next t ∧ ChangesOnly { regs := [x] } s t ∧
      ∀ j : Nat, j < 8 → (t.getV x).getLsbD j = ((s.getV x).getLsbD j ^^ (s.getV y).getLsbD j)

/-- 41_load_alu.md, 8xy4 (R96; with `x = F` the result overwrites the flag, decision D6, log entry 13): the sum is of
the old operands in every form. -/
def Obligations.AddSetsCarry : Prop :=
  ∀ (s : State) (x y : Reg),
    ∃ t, exec (.addReg x y) s = .next t ∧
      (t.getV x).toNat = ((s.getV x).toNat + (s.getV y).toNat) % 256 ∧
      (x ≠ vf → t.getV vf = if 255 < (s.getV x).toNat + (s.getV y).toNat then 1 else 0) ∧
      ChangesOnly { regs := [x, vf] } s t

/-- 41_load_alu.md, 8xy5 (R97; the forms with `x = F` or `y = F` by decision D6, log entry 13): flag `f` first, strictly
greater; then the difference of the operands read again, so an operand that is `VF` is `f`. -/
def Obligations.SubtractSetsStrictlyGreater : Prop :=
  ∀ (s : State) (x y : Reg) (f : Byte), f = (if (s.getV y).toNat < (s.getV x).toNat then 1 else 0) →
    ∃ t, exec (.sub x y) s = .next t ∧
      (t.getV x).toNat =
        ((if x = vf then f else s.getV x).toNat + 256 - (if y = vf then f else s.getV y).toNat) % 256 ∧
      (x ≠ vf → t.getV vf = f) ∧ ChangesOnly { regs := [x, vf] } s t

/-- 41_load_alu.md, 8xy7 (R99; the forms with `x = F` or `y = F` by decision D6, log entry 13). -/
def Obligations.ReverseSubtractSetsStrictlyGreater : Prop :=
  ∀ (s : State) (x y : Reg) (f : Byte), f = (if (s.getV x).toNat < (s.getV y).toNat then 1 else 0) →
    ∃ t, exec (.subn x y) s = .next t ∧
      (t.getV x).toNat =
        ((if y = vf then f else s.getV y).toNat + 256 - (if x = vf then f else s.getV x).toNat) % 256 ∧
      (x ≠ vf → t.getV vf = f) ∧ ChangesOnly { regs := [x, vf] } s t

/-- 41_load_alu.md, 8xy6 (R98, R61; the form with `x = F` by decision D6, log entry 13): whatever `y` is. -/
def Obligations.ShiftRightSetsTheBitShiftedOut : Prop :=
  ∀ (s : State) (x y : Reg),
    ∃ t, exec (.shr x y) s = .next t ∧
      (x ≠ vf → (t.getV x).toNat = (s.getV x).toNat / 2 ∧ (t.getV vf).toNat = (s.getV x).toNat % 2) ∧
      (x = vf → t.getV vf = 0) ∧ ChangesOnly { regs := [x, vf] } s t

/-- 41_load_alu.md, 8xyE (R100, R61; the form with `x = F` by decision D6, log entry 13): whatever `y` is. -/
def Obligations.ShiftLeftSetsTheBitShiftedOut : Prop :=
  ∀ (s : State) (x y : Reg),
    ∃ t, exec (.shl x y) s = .next t ∧
      (x ≠ vf → (t.getV x).toNat = (2 * (s.getV x).toNat) % 256 ∧ (t.getV vf).toNat = (s.getV x).toNat / 128) ∧
      (x = vf → (t.getV vf).toNat = 2 * ((s.getV vf).toNat / 128)) ∧ ChangesOnly { regs := [x, vf] } s t

/-- 41_load_alu.md, Cxkk (R103, decision D16, log entry 6): a free byte masked with `kk`, so bits clear in `kk` are
clear; `randomByte` is a free value and nothing rests on which one. -/
def Obligations.RandomIsMaskedByImmediate : Prop :=
  ∀ (s : State) (x : Reg) (kk : Byte),
    ∃ t, exec (.rnd x kk) s = .next t ∧ t.getV x = Config.randomByte s.draws &&& kk ∧
      (∀ j : Nat, kk.getLsbD j = false → (t.getV x).getLsbD j = false) ∧ t.draws = s.draws + 1 ∧
      ChangesOnly { regs := [x], draws := true } s t

/-- 10_state.md R12: what each of the six flag-writing instructions leaves in `VF` when its `x` is not `F` (whatever
`x` is for `Dxyn`), and that every other instruction leaves `VF` alone unless it is the destination. -/
def Obligations.FlagRegisterIsWrittenByExactlySixInstructions : Prop :=
  (∀ (s t : State) (x y : Reg), x ≠ vf →
    (exec (.addReg x y) s = .next t → t.getV vf = if (s.getV x).toNat + (s.getV y).toNat > 255 then 1 else 0) ∧
    (exec (.sub x y) s = .next t → t.getV vf = if (s.getV x).toNat > (s.getV y).toNat then 1 else 0) ∧
    (exec (.shr x y) s = .next t → t.getV vf = s.getV x &&& 1) ∧
    (exec (.subn x y) s = .next t → t.getV vf = if (s.getV y).toNat > (s.getV x).toNat then 1 else 0) ∧
    (exec (.shl x y) s = .next t → t.getV vf = if s.getV x &&& 0x80 ≠ 0 then 1 else 0)) ∧
  (∀ (s t : State) (x y : Reg) (n : RowCount), exec (.drw x y n) s = .next t →
    ((∃ c, s.pixel c = true ∧ t.pixel c = false) → t.getV vf = 1) ∧
    ((∀ c, s.pixel c = true → t.pixel c = true) → t.getV vf = 0)) ∧
  ∀ (i : Instr) (s t : State), exec i s = .next t →
    (∀ x y, i ≠ .addReg x y ∧ i ≠ .sub x y ∧ i ≠ .shr x y ∧ i ≠ .subn x y ∧ i ≠ .shl x y) →
    (∀ x y n, i ≠ .drw x y n) →
    (∀ kk y, i ≠ .ldImm vf kk ∧ i ≠ .addImm vf kk ∧ i ≠ .rnd vf kk ∧ i ≠ .ldReg vf y ∧ i ≠ .orReg vf y ∧
      i ≠ .andReg vf y ∧ i ≠ .xorReg vf y) →
    i ≠ .ldVxDt vf → i ≠ .ldVxK vf → i ≠ .ldVxMem vf → t.getV vf = s.getV vf

/-! ### Index register and memory -/

/-- 42_index_memory.md R110, R111: no flag. -/
def Obligations.IndexLoadAndAdd : Prop :=
  (∀ (nnn : Address) (x : Reg), decodeWord (formA 0xA nnn) = some (.ldI nnn) ∧
    decodeWord (formXK 0xF x 0x1E) = some (.addI x)) ∧
  ∀ (s : State) (nnn : Address) (x : Reg),
    (∃ t, exec (.ldI nnn) s = .next t ∧ t.i.toNat = nnn.toNat ∧ ChangesOnly { index := true } s t) ∧
    ∃ t, exec (.addI x) s = .next t ∧ t.i.toNat = (s.i.toNat + (s.getV x).toNat) % 4096 ∧
      ChangesOnly { index := true } s t

/-- 42_index_memory.md, Fx29 (R112; the values above 15 by decision D13, log entry 19). -/
def Obligations.IndexPointsAtTheGlyph : Prop :=
  ∀ (s : State) (x : Reg),
    ∃ t, exec (.ldF x) s = .next t ∧ t.i.toNat = 0x050 + 5 * (s.getV x).toNat ∧ ChangesOnly { index := true } s t

/-- 42_index_memory.md R113: three digits at `ea(I)`, `ea(I + 1)`, `ea(I + 2)`. -/
def Obligations.DecimalDigitsAreStored : Prop :=
  (∀ x : Reg, decodeWord (formXK 0xF x 0x33) = some (.ldB x)) ∧
  ∀ (s : State) (x : Reg), memWf s.mem = true →
    ∃ t, exec (.ldB x) s = .next t ∧ (∀ k : Nat, (ea s.i k).toNat = (s.i.toNat + k) % 4096) ∧
      (t.readByte (ea s.i 0)).toNat = (s.getV x).toNat / 100 ∧
      (t.readByte (ea s.i 1)).toNat = (s.getV x).toNat / 10 % 10 ∧
      (t.readByte (ea s.i 2)).toNat = (s.getV x).toNat % 10 ∧
      ChangesOnly { cells := [ea s.i 0, ea s.i 1, ea s.i 2] } s t

/-- 42_index_memory.md R114: `V0..Vx` at `ea(I + i)`, `I` unchanged. -/
def Obligations.RegistersAreStored : Prop :=
  (∀ x : Reg, decodeWord (formXK 0xF x 0x55) = some (.ldMemVx x)) ∧
  ∀ (s : State) (x : Reg), memWf s.mem = true →
    ∃ t, exec (.ldMemVx x) s = .next t ∧ (∀ k : Nat, (ea s.i k).toNat = (s.i.toNat + k) % 4096) ∧
      (∀ r : Reg, r.val ≤ x.val → t.readByte (ea s.i r.val) = s.getV r) ∧
      ChangesOnly { cells := (regsUpTo x).map fun r => ea s.i r.val } s t

/-- 42_index_memory.md R115: `V0..Vx` from `ea(I + i)`, `I` and memory unchanged. -/
def Obligations.RegistersAreLoaded : Prop :=
  (∀ x : Reg, decodeWord (formXK 0xF x 0x65) = some (.ldVxMem x)) ∧
  ∀ (s : State) (x : Reg),
    ∃ t, exec (.ldVxMem x) s = .next t ∧ (∀ k : Nat, (ea s.i k).toNat = (s.i.toNat + k) % 4096) ∧
      (∀ r : Reg, r.val ≤ x.val → t.getV r = s.readByte (ea s.i r.val)) ∧
      ChangesOnly { regs := (List.finRange 16).filter fun r => r.val ≤ x.val } s t

/-- 42_index_memory.md R114 then R115, 20_memory.md R31: registers stored by `Fx55` are loaded back by a later `Fx65`
that finds the same memory and index. -/
def Obligations.StoredRegistersLoadBack : Prop :=
  ∀ (s u : State) (x : Reg), memWf s.mem = true →
    ∃ t, exec (.ldMemVx x) s = .next t ∧
      (u.mem = t.mem → u.i = t.i → ∃ w, exec (.ldVxMem x) u = .next w ∧ ∀ r : Reg, r.val ≤ x.val → w.getV r = s.getV r)

/-- 20_memory.md R43: a stored instruction is what the next fetch sees, with no barrier; `Fx55` stores bytes `j` and
`j + 1` of a word at `pc`. -/
def Obligations.NextFetchSeesTheStore : Prop :=
  ∀ (s : State) (x j k : Reg), memWf s.mem = true → s.canFetch = true → k.val = j.val + 1 → k.val ≤ x.val →
    ea s.i j.val = s.pc.setWidth 12 →
    ∃ t, exec (.ldMemVx x) s = .next t ∧ t.pc = s.pc ∧ t.fetched.opcode = s.getV j ++ s.getV k

/-- 20_memory.md R44: no instruction but `Fx33` and `Fx55` changes main memory. -/
def Obligations.OnlyTwoInstructionsWriteMemory : Prop :=
  ∀ (i : Instr) (s t : State), exec i s = .next t → (∀ x, i ≠ .ldB x ∧ i ≠ .ldMemVx x) → t.mem = s.mem

/-! ### Display -/

/-- 43_display.md R120. -/
def Obligations.ClearTurnsEveryCellOff : Prop :=
  decodeWord 0x00E0 = some .cls ∧
  ∀ s : State, ∃ t, exec .cls s = .next t ∧ (∀ c : VideoCell, t.pixel c = false) ∧ ChangesOnly { video := true } s t

/-- 43_display.md R121, R122 (decisions D7 to D10, log entries 14 to 16): exactly the covered cells are inverted, and
`VF` is 1 when a covered cell was on, else 0, in every form. -/
def Obligations.DrawInvertsExactlyTheSprite : Prop :=
  ∀ (s : State) (x y : Reg) (n : RowCount),
    ∃ t, exec (.drw x y n) s = .next t ∧
      (∀ c, Covered s x y n c → t.pixel c = !s.pixel c) ∧ (∀ c, ¬ Covered s x y n c → t.pixel c = s.pixel c) ∧
      ((∃ c, Covered s x y n c ∧ s.pixel c = true) → t.getV vf = 1) ∧
      ((∀ c, Covered s x y n c → s.pixel c = false) → t.getV vf = 0) ∧
      ChangesOnly { regs := [vf], video := true } s t

/-- 95_test_vectors.md S8: a second draw at the same position restores the screen and reports a collision when a covered
cell was off before the first (as on a clear screen); no cell covered or all of them on, none. -/
def Obligations.SecondDrawRestoresTheScreen : Prop :=
  ∀ (s : State) (x y : Reg) (n : RowCount),
    ∃ t, exec (.drw x y n) s = .next t ∧ (t.getV x = s.getV x → t.getV y = s.getV y →
      ∃ u, exec (.drw x y n) t = .next u ∧ (∀ c, u.pixel c = s.pixel c) ∧
        ((∃ c, Covered s x y n c ∧ s.pixel c = false) → u.getV vf = 1) ∧
        ((∀ c, Covered s x y n c → s.pixel c = true) → u.getV vf = 0))

/-! ### Keypad and timers -/

/-- 44_keypad_timers.md R130, R131 (the fault by decision D11, log entry 17): the key is the VALUE of `V[x]`. -/
def Obligations.KeySkipsTestTheKey : Prop :=
  (∀ (s : State) (x : Reg) (k : Key), (s.getV x).toNat = k.val →
    (∃ t, exec (.skp x) s = .next t ∧ t.pc = (if s.keys[k.val] = true then s.pc + 2 else s.pc) ∧
      ChangesOnly { pc := true } s t) ∧
    ∃ t, exec (.sknp x) s = .next t ∧ t.pc = (if s.keys[k.val] = true then s.pc else s.pc + 2) ∧
      ChangesOnly { pc := true } s t) ∧
  ∀ (s : State) (x : Reg), 15 < (s.getV x).toNat →
    exec (.skp x) s = .fault (.keypadIndexOutOfRange s.opcode (s.pc - 2) (s.getV x)) ∧
    exec (.sknp x) s = .fault (.keypadIndexOutOfRange s.opcode (s.pc - 2) (s.getV x))

/-- 44_keypad_timers.md R132, R134 (and R135, stated whole below). -/
def Obligations.TimerMoves : Prop :=
  (∀ x : Reg, decodeWord (formXK 0xF x 0x07) = some (.ldVxDt x) ∧ decodeWord (formXK 0xF x 0x15) = some (.ldDtVx x) ∧
    decodeWord (formXK 0xF x 0x18) = some (.ldStVx x)) ∧
  ∀ (s : State) (x : Reg),
    (∃ t, exec (.ldVxDt x) s = .next t ∧ t.getV x = s.dt ∧ ChangesOnly { regs := [x] } s t) ∧
    (∃ t, exec (.ldDtVx x) s = .next t ∧ t.dt = s.getV x ∧ (tick t).dt.toNat = (s.getV x).toNat - 1 ∧
      ChangesOnly { dt := true } s t) ∧
    ∃ t, exec (.ldStVx x) s = .next t ∧ t.st = s.getV x ∧ ChangesOnly { st := true } s t

/-- 44_keypad_timers.md, Fx0A (R133, decision D12, log entries 7 and 18): with no key pressed the cycle is held and only
`opcode` differs; otherwise a pressed key's number is loaded, which of several is a free value. -/
def Obligations.KeyWaitHoldsOrLoadsAPressedKey : Prop :=
  (∀ (s : State) (x : Reg), (∀ k : Key, s.keys[k.val] = false) →
    ∃ t, exec (.ldVxK x) s = .next t ∧ t.pc = s.pc - 2 ∧ ChangesOnly { pc := true } s t) ∧
  (∀ (s : State) (x : Reg) (k : Key), s.keys[k.val] = true →
    ∃ t, exec (.ldVxK x) s = .next t ∧ ChangesOnly { regs := [x] } s t ∧
      (∃ j : Key, s.keys[j.val] = true ∧ (t.getV x).toNat = j.val) ∧
      ((∀ j : Key, s.keys[j.val] = true → j = k) → (t.getV x).toNat = k.val)) ∧
  ∀ (s : State) (x : Reg), s.canFetch = true → decodeWord s.wordAtPc = some (.ldVxK x) →
    (∀ k : Key, s.keys[k.val] = false) → cycle s = ({ s with opcode := s.wordAtPc }, .held)

/-- 60_exceptions.md R152: both timers, floored at 0, and nothing else. -/
def Obligations.TickDecrementsBothTimers : Prop :=
  ∀ s : State, (tick s).dt.toNat = s.dt.toNat - 1 ∧ (tick s).st.toNat = s.st.toNat - 1 ∧
    ChangesOnly { dt := true, st := true } s (tick s)

/-- 10_state.md R19, 44_keypad_timers.md R135: `ST` is written by `Fx18` and the tick, read by no instruction, and 0 at
reset. -/
def Obligations.SoundTimerIsNeverRead : Prop :=
  (∀ (i : Instr) (s : State) (b : Byte), (∀ x, i ≠ .ldStVx x) →
    exec i (s.setSt b) = mapNext (·.setSt b) (exec i s)) ∧
  (∀ (x : Reg) (s : State) (b : Byte), exec (.ldStVx x) (s.setSt b) = exec (.ldStVx x) s ∧
    ∃ t, exec (.ldStVx x) s = .next t ∧ t.st = s.getV x ∧ ChangesOnly { st := true } s t) ∧
  (∀ s : State, (tick s).st.toNat = s.st.toNat - 1 ∧ (soundOn s = true ↔ s.st ≠ 0)) ∧ State.reset.st = 0

/-! ### What each part of the state is reached by -/

/-- 10_state.md R16, R17: `stack` and `sp` are read and written by `2nnn` and `00EE` alone. -/
def Obligations.CallStackIsReachedOnlyByCallAndReturn : Prop :=
  ∀ (i : Instr) (s : State) (k : Vector Word 16) (p : Fin 17), i ≠ .ret → (∀ nnn, i ≠ .call nnn) →
    exec i { s with stack := k, sp := p } = mapNext (fun t => { t with stack := k, sp := p }) (exec i s)

/-- 10_state.md R21: `video` is read and written by `00E0` and `Dxyn` alone. -/
def Obligations.VideoIsReachedOnlyByClearAndDraw : Prop :=
  ∀ (i : Instr) (s : State) (p : Vector (BitVec 64) 32), i ≠ .cls → (∀ x y n, i ≠ .drw x y n) →
    exec i (s.setVideo p) = mapNext (·.setVideo p) (exec i s)

/-! ### The host -/

/-- 70_reset_and_hazards.md R162, R165: `load` copies at most 3584 bytes from `0x200` upward and changes nothing else,
twice is once, and a longer image is rejected whole. -/
def Obligations.LoadCopiesTheImageOrRejectsIt : Prop :=
  (∀ (s : State) (bytes : List Byte), memWf s.mem = true → bytes.length ≤ 3584 →
    ∃ t, load bytes s = .ok t ∧
      (∀ k : Nat, k < bytes.length → t.readByte (BitVec.ofNat 12 (0x200 + k)) = bytes.getD k 0) ∧
      ChangesOnly { cells := (List.range bytes.length).map fun k => BitVec.ofNat 12 (0x200 + k) } s t ∧
      load bytes t = .ok t) ∧
  ∀ (s : State) (bytes : List Byte), 3584 < bytes.length →
    load bytes s = .error ⟨bytes.length⟩ ∧
    perform (.load bytes) ⟨s, none⟩ = (⟨s, none⟩, .loadError ⟨bytes.length⟩)

/-- 60_exceptions.md R149 (decision D17, log entry 21): a fault ends the run, and only `reset` follows, which gives the
reset state but for the model's count of drawn bytes (log entry 6). -/
def Obligations.FaultEndsTheRunUntilReset : Prop :=
  (∀ (s : State) (f : Fault), step s = .fault f → (perform .cycle ⟨s, none⟩).1.ended = some f) ∧
  (∀ (ops : List HostOp) (r : Session), r.ended ≠ none → HostOp.reset ∉ ops → runOps ops r = r) ∧
  ∀ r : Session, (perform .reset r).1 = ⟨{ State.reset with draws := r.machine.draws }, none⟩

/-- 10_state.md, section 7 Hidden state, and 41_load_alu.md, Cxkk (R24, R103; decision D16, log entry 6): each executed
`Cxkk` moves the model's draw index on by one and no other instruction moves it; no sequence of host operations takes it
back, resets included, so whatever follows a `Cxkk` draws at a greater index. It is about the index alone: the byte
there is a free value and may equal an earlier one (`RandomIsMaskedByImmediate` says which index `Cxkk` draws at). -/
def Obligations.RandomDrawIndexMovesOnAndNeverBack : Prop :=
  (∀ (i : Instr) (s t : State), exec i s = .next t →
    ((∃ x kk, i = .rnd x kk) → t.draws = s.draws + 1) ∧ ((∀ x kk, i ≠ .rnd x kk) → t.draws = s.draws)) ∧
  (∀ (ops : List HostOp) (r : Session), r.machine.draws ≤ (runOps ops r).machine.draws) ∧
  ∀ (ops : List HostOp) (s : State) (x : Reg) (kk : Byte), s.canFetch = true →
    decodeWord s.wordAtPc = some (.rnd x kk) → s.draws < (runOps (.cycle :: ops) ⟨s, none⟩).machine.draws

/-- 70_reset_and_hazards.md R170 (decision D20, log entry 24): a finished program stays finished, whatever sequence of
cycles, ticks and keypad writes the host makes, and the rest of its state but `opcode`, the timers and the keypad stays. -/
def Obligations.FinishedProgramStaysFinished : Prop :=
  ∀ (ops : List HostOp) (s : State), Finished s →
    (∀ op ∈ ops, op = .cycle ∨ op = .tick ∨ ∃ flags, op = .writeKeypad flags) →
    (runOps ops ⟨s, none⟩).ended = none ∧ Finished (runOps ops ⟨s, none⟩).machine ∧
    (runOps ops ⟨s, none⟩).machine =
      { s with
        opcode := (runOps ops ⟨s, none⟩).machine.opcode
        dt := (runOps ops ⟨s, none⟩).machine.dt
        st := (runOps ops ⟨s, none⟩).machine.st
        keys := (runOps ops ⟨s, none⟩).machine.keys }
end

