-- ==== Sys2Proof/Laws/Encoding.lean ====
section
/-! SUPPORT. The fields of a word built by a format (spec/30_encoding.md R56, R57): each is what the format put there. -/

namespace Sys2Proof

/-- Appending bit vectors is a sum of their values, each at its place. -/
theorem toNat_append_eq {m n : Nat} (a : BitVec m) (b : BitVec n) :
    (a ++ b).toNat = a.toNat * 2 ^ n + b.toNat := by
  rw [BitVec.toNat_append, ← Nat.shiftLeft_add_eq_or_of_lt b.isLt, Nat.shiftLeft_eq]

theorem toNat_formA (f : BitVec 4) (nnn : Address) : (formA f nnn).toNat = f.toNat * 4096 + nnn.toNat :=
  toNat_append_eq f nnn

theorem toNat_formXK (f : BitVec 4) (x : Reg) (kk : Byte) :
    (formXK f x kk).toNat = f.toNat * 4096 + x.val * 256 + kk.toNat := by
  refine (toNat_append_eq (f ++ BitVec.ofFin (w := 4) x) kk).trans ?_
  rw [toNat_append_eq, show (BitVec.ofFin (w := 4) x).toNat = x.val from rfl]
  omega

theorem toNat_formXYN (f : BitVec 4) (x y : Reg) (low : BitVec 4) :
    (formXYN f x y low).toNat = f.toNat * 4096 + x.val * 256 + y.val * 16 + low.toNat := by
  refine (toNat_append_eq (f ++ BitVec.ofFin (w := 4) x ++ BitVec.ofFin (w := 4) y) low).trans ?_
  rw [toNat_append_eq, toNat_append_eq, show (BitVec.ofFin (w := 4) x).toNat = x.val from rfl,
    show (BitVec.ofFin (w := 4) y).toNat = y.val from rfl]
  omega

/-! ### The fields as quotients and remainders -/

theorem toNat_nib3 (w : Word) : (nib3 w).toNat = w.toNat / 4096 := by
  have := w.isLt
  simp [nib3, Nat.shiftRight_eq_div_pow]
  omega

theorem toNat_nib0 (w : Word) : (nib0 w).toNat = w.toNat % 16 := by simp [nib0]

theorem val_fieldX (w : Word) : (fieldX w).val = w.toNat / 256 % 16 := by
  show (w.extractLsb' 8 4).toNat = _
  simp [Nat.shiftRight_eq_div_pow]

theorem val_fieldY (w : Word) : (fieldY w).val = w.toNat / 16 % 16 := by
  show (w.extractLsb' 4 4).toNat = _
  simp [Nat.shiftRight_eq_div_pow]

theorem val_fieldN (w : Word) : (fieldN w).val = w.toNat % 16 := by
  show (w.extractLsb' 0 4).toNat = _
  simp

theorem toNat_fieldKK (w : Word) : (fieldKK w).toNat = w.toNat % 256 := by simp [fieldKK]

theorem toNat_fieldNNN (w : Word) : (fieldNNN w).toNat = w.toNat % 4096 := by simp [fieldNNN]

/-! ### The fields of each format -/

@[simp] theorem nib3_formA (f : BitVec 4) (nnn : Address) : nib3 (formA f nnn) = f :=
  BitVec.eq_of_toNat_eq (by rw [toNat_nib3, toNat_formA]; omega)

@[simp] theorem fieldNNN_formA (f : BitVec 4) (nnn : Address) : fieldNNN (formA f nnn) = nnn :=
  BitVec.eq_of_toNat_eq (by rw [toNat_fieldNNN, toNat_formA]; omega)

@[simp] theorem nib3_formXK (f : BitVec 4) (x : Reg) (kk : Byte) : nib3 (formXK f x kk) = f :=
  BitVec.eq_of_toNat_eq (by rw [toNat_nib3, toNat_formXK]; omega)

@[simp] theorem fieldX_formXK (f : BitVec 4) (x : Reg) (kk : Byte) : fieldX (formXK f x kk) = x :=
  Fin.ext (by rw [val_fieldX, toNat_formXK]; omega)

@[simp] theorem fieldKK_formXK (f : BitVec 4) (x : Reg) (kk : Byte) : fieldKK (formXK f x kk) = kk :=
  BitVec.eq_of_toNat_eq (by rw [toNat_fieldKK, toNat_formXK]; omega)

@[simp] theorem nib3_formXYN (f : BitVec 4) (x y : Reg) (low : BitVec 4) : nib3 (formXYN f x y low) = f :=
  BitVec.eq_of_toNat_eq (by rw [toNat_nib3, toNat_formXYN]; omega)

@[simp] theorem nib0_formXYN (f : BitVec 4) (x y : Reg) (low : BitVec 4) : nib0 (formXYN f x y low) = low :=
  BitVec.eq_of_toNat_eq (by rw [toNat_nib0, toNat_formXYN]; omega)

@[simp] theorem fieldX_formXYN (f : BitVec 4) (x y : Reg) (low : BitVec 4) : fieldX (formXYN f x y low) = x :=
  Fin.ext (by rw [val_fieldX, toNat_formXYN]; omega)

@[simp] theorem fieldY_formXYN (f : BitVec 4) (x y : Reg) (low : BitVec 4) : fieldY (formXYN f x y low) = y :=
  Fin.ext (by rw [val_fieldY, toNat_formXYN]; omega)

@[simp] theorem fieldN_formXYN (f : BitVec 4) (x y : Reg) (low : BitVec 4) : fieldN (formXYN f x y low) = low.toFin :=
  Fin.ext (by rw [val_fieldN, toNat_formXYN]; show _ = low.toNat; omega)

end Sys2Proof
end

