-- ==== Sys2Proof/Laws/Memory.lean ====
section
/-! SUPPORT. Main memory: a read after a write, and that every memory operation keeps the canonical form. -/

namespace Sys2Proof.Machine

/-! ### Reads -/

theorem memRead_memCons_self (m : Memory) (a : Nat) (v : Byte) (h : memRead m a = resetByte a) :
    memRead (memCons a v m) a = v := by
  unfold memCons
  split
  · rw [h]; exact Eq.symm ‹_›
  · simp [memRead]

theorem memRead_memCons_ne (m : Memory) {a b : Nat} (v : Byte) (h : b ≠ a) :
    memRead (memCons a v m) b = memRead m b := by
  unfold memCons
  split
  · rfl
  · simp [memRead, h]

/-- An address below every listed cell reads as its reset contents. -/
theorem memRead_of_lt {m : Memory} {lo a : Nat} (hm : memWfFrom lo m = true) (h : a < lo) :
    memRead m a = resetByte a := by
  induction m generalizing lo with
  | nil => rfl
  | cons c m ih =>
    obtain ⟨b, w⟩ := c
    simp only [memWfFrom, Bool.and_eq_true, decide_eq_true_eq] at hm
    have hab : a ≠ b := by omega
    simp only [memRead, if_neg hab]
    exact ih hm.2 (by omega)

/-- A read after a write (R31): the byte written at its own address, the old byte elsewhere. -/
theorem memRead_memWrite {m : Memory} {lo : Nat} (hm : memWfFrom lo m = true) (a : Nat) (v : Byte) (b : Nat) :
    memRead (memWrite m a v) b = if b = a then v else memRead m b := by
  induction m generalizing lo with
  | nil =>
    by_cases h : b = a
    · subst h; simpa [memWrite] using memRead_memCons_self [] b v rfl
    · simpa [memWrite, h] using memRead_memCons_ne [] v h
  | cons c m ih =>
    obtain ⟨d, w⟩ := c
    have hm' := hm
    simp only [memWfFrom, Bool.and_eq_true, decide_eq_true_eq] at hm'
    obtain ⟨⟨⟨hlo, -⟩, -⟩, hrest⟩ := hm'
    simp only [memWrite]
    split
    · rename_i hlt
      by_cases h : b = a
      · subst h
        have hne : b ≠ d := by omega
        have : memRead ((d, w) :: m) b = resetByte b := by
          simp only [memRead, if_neg hne]
          exact memRead_of_lt hrest (by omega)
        simpa using memRead_memCons_self _ _ v this
      · simpa [h] using memRead_memCons_ne _ v h
    · split
      · rename_i heq
        subst heq
        by_cases h : b = a
        · subst h
          simpa using memRead_memCons_self m b v (memRead_of_lt hrest (by omega))
        · simpa [h, memRead] using memRead_memCons_ne m v h
      · rename_i hne
        simp only [memRead]
        split
        · rename_i hbd
          have : b ≠ a := fun e => hne (by omega)
          simp [this]
        · exact ih hrest

/-! ### The canonical form -/

/-- A lower bound may be lowered. -/
theorem memWfFrom_mono {m : Memory} {lo lo' : Nat} (h : lo' ≤ lo) (hm : memWfFrom lo m = true) :
    memWfFrom lo' m = true := by
  cases m with
  | nil => rfl
  | cons c m =>
    obtain ⟨a, v⟩ := c
    simp only [memWfFrom, Bool.and_eq_true, decide_eq_true_eq] at hm ⊢
    exact ⟨⟨⟨by omega, hm.1.1.2⟩, hm.1.2⟩, hm.2⟩

theorem memWfFrom_memCons {m : Memory} {lo a : Nat} (v : Byte) (hlo : lo ≤ a) (ha : a < Config.memSize)
    (hm : memWfFrom (a + 1) m = true) : memWfFrom lo (memCons a v m) = true := by
  unfold memCons
  split
  · exact memWfFrom_mono (by omega) hm
  · simp [memWfFrom, hlo, ha, hm, ‹¬ v = resetByte a›]

/-- A write keeps the canonical form. -/
theorem memWfFrom_memWrite {m : Memory} {lo a : Nat} (v : Byte) (hlo : lo ≤ a) (ha : a < Config.memSize)
    (hm : memWfFrom lo m = true) : memWfFrom lo (memWrite m a v) = true := by
  induction m generalizing lo with
  | nil => exact memWfFrom_memCons v hlo ha rfl
  | cons c m ih =>
    obtain ⟨b, w⟩ := c
    have hm' := hm
    simp only [memWfFrom, Bool.and_eq_true, decide_eq_true_eq] at hm'
    obtain ⟨⟨⟨hb, hb'⟩, hw⟩, hrest⟩ := hm'
    simp only [memWrite]
    split
    · refine memWfFrom_memCons v hlo ha ?_
      simp only [memWfFrom, Bool.and_eq_true, decide_eq_true_eq]
      exact ⟨⟨⟨by omega, hb'⟩, hw⟩, hrest⟩
    · split
      · rename_i heq
        subst heq
        exact memWfFrom_memCons v hlo ha hrest
      · simp only [memWfFrom, Bool.and_eq_true, decide_eq_true_eq]
        exact ⟨⟨⟨hb, hb'⟩, hw⟩, ih (by omega) hrest⟩

/-- A write of an existing cell keeps the canonical form. -/
theorem memWf_memWrite {m : Memory} {a : Nat} (v : Byte) (ha : a < Config.memSize) (hm : memWf m = true) :
    memWf (memWrite m a v) = true := memWfFrom_memWrite v (Nat.zero_le a) ha hm

/-- Copying bytes to existing cells keeps the canonical form (R162). -/
theorem memWf_memWriteList {m : Memory} {a : Nat} {bs : List Byte} (h : a + bs.length ≤ Config.memSize)
    (hm : memWf m = true) : memWf (memWriteList m a bs) = true := by
  induction bs generalizing m a with
  | nil => exact hm
  | cons b bs ih =>
    simp only [List.length_cons] at h
    exact ih (by omega) (memWf_memWrite b (by omega) hm)

/-- A read after copying bytes (R162): the copied byte inside the range, the old byte outside. -/
theorem memRead_memWriteList {m : Memory} {a : Nat} {bs : List Byte} (h : a + bs.length ≤ Config.memSize)
    (hm : memWf m = true) (b : Nat) :
    memRead (memWriteList m a bs) b =
      if a ≤ b ∧ b < a + bs.length then bs.getD (b - a) 0 else memRead m b := by
  induction bs generalizing m a with
  | nil => simp [memWriteList, show ¬ (a ≤ b ∧ b < a) by omega]
  | cons c bs ih =>
    simp only [List.length_cons] at h ⊢
    rw [memWriteList, ih (by omega) (memWf_memWrite c (by omega) hm), memRead_memWrite hm]
    by_cases hb : b = a
    · subst hb
      simp
    · by_cases hr : a + 1 ≤ b ∧ b < a + 1 + bs.length
      · have : b - a = (b - (a + 1)) + 1 := by omega
        simp [hr, this, show a ≤ b ∧ b < a + (bs.length + 1) by omega]
      · rw [if_neg hr, if_neg hb, if_neg (show ¬ (a ≤ b ∧ b < a + (bs.length + 1)) by omega)]

/-- Reset memory is canonical. -/
theorem memWf_reset : memWf State.reset.mem = true := rfl

/-! ### Bytes of a state -/

theorem State.readByte_writeByte {s : State} (hm : memWf s.mem = true) (a : Address) (v : Byte) (b : Address) :
    (s.writeByte a v).readByte b = if b = a then v else s.readByte b := by
  simp only [State.readByte, State.writeByte, memRead_memWrite hm, BitVec.toNat_inj]

theorem State.memWf_writeByte {s : State} (hm : memWf s.mem = true) (a : Address) (v : Byte) :
    memWf (s.writeByte a v).mem = true := memWf_memWrite v a.isLt hm

end Sys2Proof.Machine
end

