-- ==== Sys2Proof/Laws/State.lean ====
section
/-! SUPPORT. One lemma per field per update of the state, true by `rfl` and tagged for `simp`, and what each update
does to the three reads (a register, a byte of memory, a pixel). -/

namespace Sys2Proof.Machine

variable (s : State)

/-! ### writeByte -/

@[simp] theorem State.writeByte_mem (a : Address) (b : Byte) : (s.writeByte a b).mem = memWrite s.mem a.toNat b := rfl
@[simp] theorem State.writeByte_v (a : Address) (b : Byte) : (s.writeByte a b).v = s.v := rfl
@[simp] theorem State.writeByte_i (a : Address) (b : Byte) : (s.writeByte a b).i = s.i := rfl
@[simp] theorem State.writeByte_pc (a : Address) (b : Byte) : (s.writeByte a b).pc = s.pc := rfl
@[simp] theorem State.writeByte_stack (a : Address) (b : Byte) : (s.writeByte a b).stack = s.stack := rfl
@[simp] theorem State.writeByte_sp (a : Address) (b : Byte) : (s.writeByte a b).sp = s.sp := rfl
@[simp] theorem State.writeByte_dt (a : Address) (b : Byte) : (s.writeByte a b).dt = s.dt := rfl
@[simp] theorem State.writeByte_st (a : Address) (b : Byte) : (s.writeByte a b).st = s.st := rfl
@[simp] theorem State.writeByte_keys (a : Address) (b : Byte) : (s.writeByte a b).keys = s.keys := rfl
@[simp] theorem State.writeByte_video (a : Address) (b : Byte) : (s.writeByte a b).video = s.video := rfl
@[simp] theorem State.writeByte_opcode (a : Address) (b : Byte) : (s.writeByte a b).opcode = s.opcode := rfl
@[simp] theorem State.writeByte_draws (a : Address) (b : Byte) : (s.writeByte a b).draws = s.draws := rfl
@[simp] theorem State.getV_writeByte (a : Address) (b : Byte) (r : Reg) : (s.writeByte a b).getV r = s.getV r := rfl
@[simp] theorem State.pixel_writeByte (a : Address) (b : Byte) (d : VideoCell) : (s.writeByte a b).pixel d = s.pixel d := rfl

/-! ### setV -/

@[simp] theorem State.setV_mem (x : Reg) (b : Byte) : (s.setV x b).mem = s.mem := rfl
@[simp] theorem State.setV_v (x : Reg) (b : Byte) : (s.setV x b).v = s.v.set x.val b := rfl
@[simp] theorem State.setV_i (x : Reg) (b : Byte) : (s.setV x b).i = s.i := rfl
@[simp] theorem State.setV_pc (x : Reg) (b : Byte) : (s.setV x b).pc = s.pc := rfl
@[simp] theorem State.setV_stack (x : Reg) (b : Byte) : (s.setV x b).stack = s.stack := rfl
@[simp] theorem State.setV_sp (x : Reg) (b : Byte) : (s.setV x b).sp = s.sp := rfl
@[simp] theorem State.setV_dt (x : Reg) (b : Byte) : (s.setV x b).dt = s.dt := rfl
@[simp] theorem State.setV_st (x : Reg) (b : Byte) : (s.setV x b).st = s.st := rfl
@[simp] theorem State.setV_keys (x : Reg) (b : Byte) : (s.setV x b).keys = s.keys := rfl
@[simp] theorem State.setV_video (x : Reg) (b : Byte) : (s.setV x b).video = s.video := rfl
@[simp] theorem State.setV_opcode (x : Reg) (b : Byte) : (s.setV x b).opcode = s.opcode := rfl
@[simp] theorem State.setV_draws (x : Reg) (b : Byte) : (s.setV x b).draws = s.draws := rfl
@[simp] theorem State.readByte_setV (x : Reg) (b : Byte) (d : Address) : (s.setV x b).readByte d = s.readByte d := rfl
@[simp] theorem State.pixel_setV (x : Reg) (b : Byte) (d : VideoCell) : (s.setV x b).pixel d = s.pixel d := rfl

/-! ### setFlag -/

@[simp] theorem State.setFlag_mem (b : Byte) : (s.setFlag b).mem = s.mem := rfl
@[simp] theorem State.setFlag_v (b : Byte) : (s.setFlag b).v = s.v.set vf.val b := rfl
@[simp] theorem State.setFlag_i (b : Byte) : (s.setFlag b).i = s.i := rfl
@[simp] theorem State.setFlag_pc (b : Byte) : (s.setFlag b).pc = s.pc := rfl
@[simp] theorem State.setFlag_stack (b : Byte) : (s.setFlag b).stack = s.stack := rfl
@[simp] theorem State.setFlag_sp (b : Byte) : (s.setFlag b).sp = s.sp := rfl
@[simp] theorem State.setFlag_dt (b : Byte) : (s.setFlag b).dt = s.dt := rfl
@[simp] theorem State.setFlag_st (b : Byte) : (s.setFlag b).st = s.st := rfl
@[simp] theorem State.setFlag_keys (b : Byte) : (s.setFlag b).keys = s.keys := rfl
@[simp] theorem State.setFlag_video (b : Byte) : (s.setFlag b).video = s.video := rfl
@[simp] theorem State.setFlag_opcode (b : Byte) : (s.setFlag b).opcode = s.opcode := rfl
@[simp] theorem State.setFlag_draws (b : Byte) : (s.setFlag b).draws = s.draws := rfl
@[simp] theorem State.readByte_setFlag (b : Byte) (d : Address) : (s.setFlag b).readByte d = s.readByte d := rfl
@[simp] theorem State.pixel_setFlag (b : Byte) (d : VideoCell) : (s.setFlag b).pixel d = s.pixel d := rfl

/-! ### setI -/

@[simp] theorem State.setI_mem (a : Address) : (s.setI a).mem = s.mem := rfl
@[simp] theorem State.setI_v (a : Address) : (s.setI a).v = s.v := rfl
@[simp] theorem State.setI_i (a : Address) : (s.setI a).i = a.setWidth 16 := rfl
@[simp] theorem State.setI_pc (a : Address) : (s.setI a).pc = s.pc := rfl
@[simp] theorem State.setI_stack (a : Address) : (s.setI a).stack = s.stack := rfl
@[simp] theorem State.setI_sp (a : Address) : (s.setI a).sp = s.sp := rfl
@[simp] theorem State.setI_dt (a : Address) : (s.setI a).dt = s.dt := rfl
@[simp] theorem State.setI_st (a : Address) : (s.setI a).st = s.st := rfl
@[simp] theorem State.setI_keys (a : Address) : (s.setI a).keys = s.keys := rfl
@[simp] theorem State.setI_video (a : Address) : (s.setI a).video = s.video := rfl
@[simp] theorem State.setI_opcode (a : Address) : (s.setI a).opcode = s.opcode := rfl
@[simp] theorem State.setI_draws (a : Address) : (s.setI a).draws = s.draws := rfl
@[simp] theorem State.getV_setI (a : Address) (r : Reg) : (s.setI a).getV r = s.getV r := rfl
@[simp] theorem State.readByte_setI (a : Address) (d : Address) : (s.setI a).readByte d = s.readByte d := rfl
@[simp] theorem State.pixel_setI (a : Address) (d : VideoCell) : (s.setI a).pixel d = s.pixel d := rfl

/-! ### setPc -/

@[simp] theorem State.setPc_mem (w : Word) : (s.setPc w).mem = s.mem := rfl
@[simp] theorem State.setPc_v (w : Word) : (s.setPc w).v = s.v := rfl
@[simp] theorem State.setPc_i (w : Word) : (s.setPc w).i = s.i := rfl
@[simp] theorem State.setPc_pc (w : Word) : (s.setPc w).pc = w := rfl
@[simp] theorem State.setPc_stack (w : Word) : (s.setPc w).stack = s.stack := rfl
@[simp] theorem State.setPc_sp (w : Word) : (s.setPc w).sp = s.sp := rfl
@[simp] theorem State.setPc_dt (w : Word) : (s.setPc w).dt = s.dt := rfl
@[simp] theorem State.setPc_st (w : Word) : (s.setPc w).st = s.st := rfl
@[simp] theorem State.setPc_keys (w : Word) : (s.setPc w).keys = s.keys := rfl
@[simp] theorem State.setPc_video (w : Word) : (s.setPc w).video = s.video := rfl
@[simp] theorem State.setPc_opcode (w : Word) : (s.setPc w).opcode = s.opcode := rfl
@[simp] theorem State.setPc_draws (w : Word) : (s.setPc w).draws = s.draws := rfl
@[simp] theorem State.getV_setPc (w : Word) (r : Reg) : (s.setPc w).getV r = s.getV r := rfl
@[simp] theorem State.readByte_setPc (w : Word) (d : Address) : (s.setPc w).readByte d = s.readByte d := rfl
@[simp] theorem State.pixel_setPc (w : Word) (d : VideoCell) : (s.setPc w).pixel d = s.pixel d := rfl

/-! ### setDt -/

@[simp] theorem State.setDt_mem (b : Byte) : (s.setDt b).mem = s.mem := rfl
@[simp] theorem State.setDt_v (b : Byte) : (s.setDt b).v = s.v := rfl
@[simp] theorem State.setDt_i (b : Byte) : (s.setDt b).i = s.i := rfl
@[simp] theorem State.setDt_pc (b : Byte) : (s.setDt b).pc = s.pc := rfl
@[simp] theorem State.setDt_stack (b : Byte) : (s.setDt b).stack = s.stack := rfl
@[simp] theorem State.setDt_sp (b : Byte) : (s.setDt b).sp = s.sp := rfl
@[simp] theorem State.setDt_dt (b : Byte) : (s.setDt b).dt = b := rfl
@[simp] theorem State.setDt_st (b : Byte) : (s.setDt b).st = s.st := rfl
@[simp] theorem State.setDt_keys (b : Byte) : (s.setDt b).keys = s.keys := rfl
@[simp] theorem State.setDt_video (b : Byte) : (s.setDt b).video = s.video := rfl
@[simp] theorem State.setDt_opcode (b : Byte) : (s.setDt b).opcode = s.opcode := rfl
@[simp] theorem State.setDt_draws (b : Byte) : (s.setDt b).draws = s.draws := rfl
@[simp] theorem State.getV_setDt (b : Byte) (r : Reg) : (s.setDt b).getV r = s.getV r := rfl
@[simp] theorem State.readByte_setDt (b : Byte) (d : Address) : (s.setDt b).readByte d = s.readByte d := rfl
@[simp] theorem State.pixel_setDt (b : Byte) (d : VideoCell) : (s.setDt b).pixel d = s.pixel d := rfl

/-! ### setSt -/

@[simp] theorem State.setSt_mem (b : Byte) : (s.setSt b).mem = s.mem := rfl
@[simp] theorem State.setSt_v (b : Byte) : (s.setSt b).v = s.v := rfl
@[simp] theorem State.setSt_i (b : Byte) : (s.setSt b).i = s.i := rfl
@[simp] theorem State.setSt_pc (b : Byte) : (s.setSt b).pc = s.pc := rfl
@[simp] theorem State.setSt_stack (b : Byte) : (s.setSt b).stack = s.stack := rfl
@[simp] theorem State.setSt_sp (b : Byte) : (s.setSt b).sp = s.sp := rfl
@[simp] theorem State.setSt_dt (b : Byte) : (s.setSt b).dt = s.dt := rfl
@[simp] theorem State.setSt_st (b : Byte) : (s.setSt b).st = b := rfl
@[simp] theorem State.setSt_keys (b : Byte) : (s.setSt b).keys = s.keys := rfl
@[simp] theorem State.setSt_video (b : Byte) : (s.setSt b).video = s.video := rfl
@[simp] theorem State.setSt_opcode (b : Byte) : (s.setSt b).opcode = s.opcode := rfl
@[simp] theorem State.setSt_draws (b : Byte) : (s.setSt b).draws = s.draws := rfl
@[simp] theorem State.getV_setSt (b : Byte) (r : Reg) : (s.setSt b).getV r = s.getV r := rfl
@[simp] theorem State.readByte_setSt (b : Byte) (d : Address) : (s.setSt b).readByte d = s.readByte d := rfl
@[simp] theorem State.pixel_setSt (b : Byte) (d : VideoCell) : (s.setSt b).pixel d = s.pixel d := rfl

/-! ### setKeys -/

@[simp] theorem State.setKeys_mem (k : Vector Bool 16) : (s.setKeys k).mem = s.mem := rfl
@[simp] theorem State.setKeys_v (k : Vector Bool 16) : (s.setKeys k).v = s.v := rfl
@[simp] theorem State.setKeys_i (k : Vector Bool 16) : (s.setKeys k).i = s.i := rfl
@[simp] theorem State.setKeys_pc (k : Vector Bool 16) : (s.setKeys k).pc = s.pc := rfl
@[simp] theorem State.setKeys_stack (k : Vector Bool 16) : (s.setKeys k).stack = s.stack := rfl
@[simp] theorem State.setKeys_sp (k : Vector Bool 16) : (s.setKeys k).sp = s.sp := rfl
@[simp] theorem State.setKeys_dt (k : Vector Bool 16) : (s.setKeys k).dt = s.dt := rfl
@[simp] theorem State.setKeys_st (k : Vector Bool 16) : (s.setKeys k).st = s.st := rfl
@[simp] theorem State.setKeys_keys (k : Vector Bool 16) : (s.setKeys k).keys = k := rfl
@[simp] theorem State.setKeys_video (k : Vector Bool 16) : (s.setKeys k).video = s.video := rfl
@[simp] theorem State.setKeys_opcode (k : Vector Bool 16) : (s.setKeys k).opcode = s.opcode := rfl
@[simp] theorem State.setKeys_draws (k : Vector Bool 16) : (s.setKeys k).draws = s.draws := rfl
@[simp] theorem State.getV_setKeys (k : Vector Bool 16) (r : Reg) : (s.setKeys k).getV r = s.getV r := rfl
@[simp] theorem State.readByte_setKeys (k : Vector Bool 16) (d : Address) : (s.setKeys k).readByte d = s.readByte d := rfl
@[simp] theorem State.pixel_setKeys (k : Vector Bool 16) (d : VideoCell) : (s.setKeys k).pixel d = s.pixel d := rfl

/-! ### setVideo -/

@[simp] theorem State.setVideo_mem (p : Vector (BitVec 64) 32) : (s.setVideo p).mem = s.mem := rfl
@[simp] theorem State.setVideo_v (p : Vector (BitVec 64) 32) : (s.setVideo p).v = s.v := rfl
@[simp] theorem State.setVideo_i (p : Vector (BitVec 64) 32) : (s.setVideo p).i = s.i := rfl
@[simp] theorem State.setVideo_pc (p : Vector (BitVec 64) 32) : (s.setVideo p).pc = s.pc := rfl
@[simp] theorem State.setVideo_stack (p : Vector (BitVec 64) 32) : (s.setVideo p).stack = s.stack := rfl
@[simp] theorem State.setVideo_sp (p : Vector (BitVec 64) 32) : (s.setVideo p).sp = s.sp := rfl
@[simp] theorem State.setVideo_dt (p : Vector (BitVec 64) 32) : (s.setVideo p).dt = s.dt := rfl
@[simp] theorem State.setVideo_st (p : Vector (BitVec 64) 32) : (s.setVideo p).st = s.st := rfl
@[simp] theorem State.setVideo_keys (p : Vector (BitVec 64) 32) : (s.setVideo p).keys = s.keys := rfl
@[simp] theorem State.setVideo_video (p : Vector (BitVec 64) 32) : (s.setVideo p).video = p := rfl
@[simp] theorem State.setVideo_opcode (p : Vector (BitVec 64) 32) : (s.setVideo p).opcode = s.opcode := rfl
@[simp] theorem State.setVideo_draws (p : Vector (BitVec 64) 32) : (s.setVideo p).draws = s.draws := rfl
@[simp] theorem State.getV_setVideo (p : Vector (BitVec 64) 32) (r : Reg) : (s.setVideo p).getV r = s.getV r := rfl
@[simp] theorem State.readByte_setVideo (p : Vector (BitVec 64) 32) (d : Address) : (s.setVideo p).readByte d = s.readByte d := rfl

/-! ### flipPixel -/

@[simp] theorem State.flipPixel_mem (c : VideoCell) : (s.flipPixel c).mem = s.mem := rfl
@[simp] theorem State.flipPixel_v (c : VideoCell) : (s.flipPixel c).v = s.v := rfl
@[simp] theorem State.flipPixel_i (c : VideoCell) : (s.flipPixel c).i = s.i := rfl
@[simp] theorem State.flipPixel_pc (c : VideoCell) : (s.flipPixel c).pc = s.pc := rfl
@[simp] theorem State.flipPixel_stack (c : VideoCell) : (s.flipPixel c).stack = s.stack := rfl
@[simp] theorem State.flipPixel_sp (c : VideoCell) : (s.flipPixel c).sp = s.sp := rfl
@[simp] theorem State.flipPixel_dt (c : VideoCell) : (s.flipPixel c).dt = s.dt := rfl
@[simp] theorem State.flipPixel_st (c : VideoCell) : (s.flipPixel c).st = s.st := rfl
@[simp] theorem State.flipPixel_keys (c : VideoCell) : (s.flipPixel c).keys = s.keys := rfl
@[simp] theorem State.flipPixel_video (c : VideoCell) : (s.flipPixel c).video = cellFlip s.video c := rfl
@[simp] theorem State.flipPixel_opcode (c : VideoCell) : (s.flipPixel c).opcode = s.opcode := rfl
@[simp] theorem State.flipPixel_draws (c : VideoCell) : (s.flipPixel c).draws = s.draws := rfl
@[simp] theorem State.getV_flipPixel (c : VideoCell) (r : Reg) : (s.flipPixel c).getV r = s.getV r := rfl
@[simp] theorem State.readByte_flipPixel (c : VideoCell) (d : Address) : (s.flipPixel c).readByte d = s.readByte d := rfl

/-! ### setOpcode -/

@[simp] theorem State.setOpcode_mem (w : Word) : (s.setOpcode w).mem = s.mem := rfl
@[simp] theorem State.setOpcode_v (w : Word) : (s.setOpcode w).v = s.v := rfl
@[simp] theorem State.setOpcode_i (w : Word) : (s.setOpcode w).i = s.i := rfl
@[simp] theorem State.setOpcode_pc (w : Word) : (s.setOpcode w).pc = s.pc := rfl
@[simp] theorem State.setOpcode_stack (w : Word) : (s.setOpcode w).stack = s.stack := rfl
@[simp] theorem State.setOpcode_sp (w : Word) : (s.setOpcode w).sp = s.sp := rfl
@[simp] theorem State.setOpcode_dt (w : Word) : (s.setOpcode w).dt = s.dt := rfl
@[simp] theorem State.setOpcode_st (w : Word) : (s.setOpcode w).st = s.st := rfl
@[simp] theorem State.setOpcode_keys (w : Word) : (s.setOpcode w).keys = s.keys := rfl
@[simp] theorem State.setOpcode_video (w : Word) : (s.setOpcode w).video = s.video := rfl
@[simp] theorem State.setOpcode_opcode (w : Word) : (s.setOpcode w).opcode = w := rfl
@[simp] theorem State.setOpcode_draws (w : Word) : (s.setOpcode w).draws = s.draws := rfl
@[simp] theorem State.getV_setOpcode (w : Word) (r : Reg) : (s.setOpcode w).getV r = s.getV r := rfl
@[simp] theorem State.readByte_setOpcode (w : Word) (d : Address) : (s.setOpcode w).readByte d = s.readByte d := rfl
@[simp] theorem State.pixel_setOpcode (w : Word) (d : VideoCell) : (s.setOpcode w).pixel d = s.pixel d := rfl

/-! ### countDraw -/

@[simp] theorem State.countDraw_mem : s.countDraw.mem = s.mem := rfl
@[simp] theorem State.countDraw_v : s.countDraw.v = s.v := rfl
@[simp] theorem State.countDraw_i : s.countDraw.i = s.i := rfl
@[simp] theorem State.countDraw_pc : s.countDraw.pc = s.pc := rfl
@[simp] theorem State.countDraw_stack : s.countDraw.stack = s.stack := rfl
@[simp] theorem State.countDraw_sp : s.countDraw.sp = s.sp := rfl
@[simp] theorem State.countDraw_dt : s.countDraw.dt = s.dt := rfl
@[simp] theorem State.countDraw_st : s.countDraw.st = s.st := rfl
@[simp] theorem State.countDraw_keys : s.countDraw.keys = s.keys := rfl
@[simp] theorem State.countDraw_video : s.countDraw.video = s.video := rfl
@[simp] theorem State.countDraw_opcode : s.countDraw.opcode = s.opcode := rfl
@[simp] theorem State.countDraw_draws : s.countDraw.draws = s.draws + 1 := rfl
@[simp] theorem State.getV_countDraw (r : Reg) : s.countDraw.getV r = s.getV r := rfl
@[simp] theorem State.readByte_countDraw (d : Address) : s.countDraw.readByte d = s.readByte d := rfl
@[simp] theorem State.pixel_countDraw (d : VideoCell) : s.countDraw.pixel d = s.pixel d := rfl

/-! ### push -/

@[simp] theorem State.push_mem (w : Word) (h : s.sp.val < 16) : (s.push w h).mem = s.mem := rfl
@[simp] theorem State.push_v (w : Word) (h : s.sp.val < 16) : (s.push w h).v = s.v := rfl
@[simp] theorem State.push_i (w : Word) (h : s.sp.val < 16) : (s.push w h).i = s.i := rfl
@[simp] theorem State.push_pc (w : Word) (h : s.sp.val < 16) : (s.push w h).pc = s.pc := rfl
@[simp] theorem State.push_stack (w : Word) (h : s.sp.val < 16) : (s.push w h).stack = s.stack.set s.sp.val w := rfl
@[simp] theorem State.push_sp (w : Word) (h : s.sp.val < 16) : (s.push w h).sp = ⟨s.sp.val + 1, Nat.succ_lt_succ h⟩ := rfl
@[simp] theorem State.push_dt (w : Word) (h : s.sp.val < 16) : (s.push w h).dt = s.dt := rfl
@[simp] theorem State.push_st (w : Word) (h : s.sp.val < 16) : (s.push w h).st = s.st := rfl
@[simp] theorem State.push_keys (w : Word) (h : s.sp.val < 16) : (s.push w h).keys = s.keys := rfl
@[simp] theorem State.push_video (w : Word) (h : s.sp.val < 16) : (s.push w h).video = s.video := rfl
@[simp] theorem State.push_opcode (w : Word) (h : s.sp.val < 16) : (s.push w h).opcode = s.opcode := rfl
@[simp] theorem State.push_draws (w : Word) (h : s.sp.val < 16) : (s.push w h).draws = s.draws := rfl
@[simp] theorem State.getV_push (w : Word) (h : s.sp.val < 16) (r : Reg) : (s.push w h).getV r = s.getV r := rfl
@[simp] theorem State.readByte_push (w : Word) (h : s.sp.val < 16) (d : Address) : (s.push w h).readByte d = s.readByte d := rfl
@[simp] theorem State.pixel_push (w : Word) (h : s.sp.val < 16) (d : VideoCell) : (s.push w h).pixel d = s.pixel d := rfl

/-! ### dropTop -/

@[simp] theorem State.dropTop_mem : s.dropTop.mem = s.mem := rfl
@[simp] theorem State.dropTop_v : s.dropTop.v = s.v := rfl
@[simp] theorem State.dropTop_i : s.dropTop.i = s.i := rfl
@[simp] theorem State.dropTop_pc : s.dropTop.pc = s.pc := rfl
@[simp] theorem State.dropTop_stack : s.dropTop.stack = s.stack := rfl
@[simp] theorem State.dropTop_sp : s.dropTop.sp = ⟨s.sp.val - 1, Nat.lt_of_le_of_lt (Nat.sub_le _ _) s.sp.isLt⟩ := rfl
@[simp] theorem State.dropTop_dt : s.dropTop.dt = s.dt := rfl
@[simp] theorem State.dropTop_st : s.dropTop.st = s.st := rfl
@[simp] theorem State.dropTop_keys : s.dropTop.keys = s.keys := rfl
@[simp] theorem State.dropTop_video : s.dropTop.video = s.video := rfl
@[simp] theorem State.dropTop_opcode : s.dropTop.opcode = s.opcode := rfl
@[simp] theorem State.dropTop_draws : s.dropTop.draws = s.draws := rfl
@[simp] theorem State.getV_dropTop (r : Reg) : s.dropTop.getV r = s.getV r := rfl
@[simp] theorem State.readByte_dropTop (d : Address) : s.dropTop.readByte d = s.readByte d := rfl
@[simp] theorem State.pixel_dropTop (d : VideoCell) : s.dropTop.pixel d = s.pixel d := rfl

end Sys2Proof.Machine
end

