-- ==== Sys2Proof/Laws/Ops.lean ====
section
/-! SUPPORT. What each shared operation can do, once: registers, the stack, the framebuffer, the keypad, operand forms,
flags, fetch and faults. -/

namespace Sys2Proof.Machine

/-! ### Registers -/

/-- A register read after a register write: every register is plain storage (R11). -/
@[simp] theorem State.getV_setV (s : State) (x : Reg) (b : Byte) (r : Reg) :
    (s.setV x b).getV r = if r = x then b else s.getV r := by
  simp only [State.getV, State.setV, Vector.getElem_set, Fin.ext_iff, eq_comm]

@[simp] theorem State.getV_setFlag (s : State) (b : Byte) (r : Reg) :
    (s.setFlag b).getV r = if r = vf then b else s.getV r := State.getV_setV s vf b r

/-! ### Program counter -/

/-- A skip moves `pc` by 2 when its condition holds, and does nothing otherwise (R78). -/
theorem State.skipIf_eq (s : State) (c : Bool) : s.skipIf c = s.setPc (if c then s.pc + 2 else s.pc) := by
  cases c <;> rfl

/-! ### The stack -/

/-- A pop after a push returns the pushed word and the old `sp` (R70, R72). -/
theorem State.topOfStack_push (s : State) (w : Word) (h : s.sp.val < 16) : (s.push w h).topOfStack = w := by
  simp [State.topOfStack, State.push]

theorem State.sp_dropTop_push (s : State) (w : Word) (h : s.sp.val < 16) : (s.push w h).dropTop.sp = s.sp := by
  simp [State.dropTop, State.push]

/-- A push changes the slot at `sp` and no other (R16). -/
theorem State.getElem_stack_push (s : State) (w : Word) (h : s.sp.val < 16) (j : Fin 16) :
    (s.push w h).stack[j.val] = if j.val = s.sp.val then w else s.stack[j.val] := by
  simp only [State.push_stack, Vector.getElem_set, eq_comm]

/-! ### The framebuffer -/

theorem cellRow_cellColumn_inj {c d : VideoCell} (hr : cellRow c = cellRow d) (hc : cellColumn c = cellColumn d) :
    c = d := by
  simp only [cellRow, cellColumn, Fin.ext_iff] at *
  omega

/-- Flipping a cell changes that cell and no other (R121, R22). -/
theorem cellOn_cellFlip (b : Vector (BitVec 64) 32) (c d : VideoCell) :
    cellOn (cellFlip b c) d = if d = c then !cellOn b d else cellOn b d := by
  have hcol : ∀ e : VideoCell, cellColumn e < 64 := fun e => Nat.mod_lt _ (by decide)
  unfold cellOn cellFlip
  rw [Vector.getElem_set]
  by_cases hrow : (cellRow c).val = (cellRow d).val
  · have hrow' : cellRow c = cellRow d := Fin.ext hrow
    by_cases hc : cellColumn c = cellColumn d
    · have : d = c := (cellRow_cellColumn_inj hrow' hc).symm
      subst this
      simp [hcol d]
    · have hne : d ≠ c := fun e => hc (by rw [e])
      simp [hrow, hne, BitVec.getLsbD_twoPow, hc]
  · have hne : d ≠ c := fun e => hrow (by rw [e])
    simp [hrow, hne]

@[simp] theorem State.pixel_flipPixel (s : State) (c d : VideoCell) :
    (s.flipPixel c).pixel d = if d = c then !s.pixel d else s.pixel d := cellOn_cellFlip s.video c d

/-- Every cell of a blank framebuffer is off (R21). -/
theorem cellOn_blankVideo (c : VideoCell) : cellOn blankVideo c = false := by simp [cellOn, blankVideo]

/-! ### The keypad -/

theorem mem_allKeys (k : Key) : k ∈ allKeys := by revert k; decide

theorem mem_pressedKeys {keys : Vector Bool 16} {k : Key} : k ∈ pressedKeys keys ↔ keyPressed keys k = true := by
  simp [pressedKeys, mem_allKeys]

/-- No key is selected exactly when none is pressed (R133). -/
theorem selectKey_eq_none {keys : Vector Bool 16} :
    selectKey keys = none ↔ ∀ k : Key, keyPressed keys k = false := by
  constructor
  · intro h k
    by_contra hk
    have hmem := mem_pressedKeys.2 (by simpa using hk)
    unfold selectKey at h
    split at h
    · rename_i he; simp [he] at hmem
    · cases h
    · split at h <;> cases h
  · intro h
    have : pressedKeys keys = [] := List.eq_nil_iff_forall_not_mem.2 fun k hk => by
      simp [mem_pressedKeys, h k] at hk
    simp [selectKey, this]

/-- A selected key is pressed (R133), whatever the free choice is. -/
theorem keyPressed_of_selectKey {keys : Vector Bool 16} {k : Key} (h : selectKey keys = some k) :
    keyPressed keys k = true := by
  unfold selectKey at h
  split at h
  · cases h
  · rename_i j he
    cases h
    exact mem_pressedKeys.1 (by simp [he])
  · rename_i j js he
    split at h
    · cases h; assumption
    · cases h
      exact mem_pressedKeys.1 (by simp [he])

/-! ### Operand forms -/

/-- The effective address modulo 4096 (R36). -/
theorem toNat_ea (i : Word) (k : Nat) : (ea i k).toNat = (i.toNat + k) % 4096 := by simp [ea]

/-- Two offsets below 4096 name different cells (R116). -/
theorem ea_inj {i : Word} {j k : Nat} (hj : j < 4096) (hk : k < 4096) : ea i j = ea i k ↔ j = k := by
  rw [← BitVec.toNat_inj, toNat_ea, toNat_ea]
  omega

/-- The indexed jump target modulo 4096 (R77). -/
theorem toNat_indexedTarget (nnn : Address) (b : Byte) :
    (indexedTarget nnn b).toNat = (nnn.toNat + b.toNat) % 4096 := by
  have := b.isLt
  simp [indexedTarget, BitVec.toNat_add]

/-- The glyph address needs no masking (R112). -/
theorem toNat_glyphAddress (b : Byte) : (glyphAddress b).toNat = 0x050 + 5 * b.toNat := by
  have := b.isLt
  simp [glyphAddress, Config.fontStart, Config.glyphBytes]
  omega

/-- The registers `V0..Vx` (R114, R115). -/
theorem mem_regsUpTo {x r : Reg} : r ∈ regsUpTo x ↔ r.val ≤ x.val := by revert x r; decide

theorem nodup_regsUpTo (x : Reg) : (regsUpTo x).Nodup := by revert x; decide

/-! ### Flags -/

/-- A flag is the byte 0 or 1 (R12). -/
theorem flagByte_cases (b : Bool) : flagByte b = 0 ∨ flagByte b = 1 := by cases b <;> simp [flagByte]

theorem flagByte_eq_one {b : Bool} : flagByte b = 1 ↔ b = true := by cases b <;> simp [flagByte]

/-! ### Fetch and faults -/

/-- The range of a fetch (R13, R37). -/
theorem State.canFetch_iff {s : State} : s.canFetch = true ↔ 0x200 ≤ s.pc.toNat ∧ s.pc.toNat ≤ 0xFFE := by
  simp [State.canFetch]

@[simp] theorem State.fetched_pc (s : State) : s.fetched.pc = s.pc + 2 := rfl

@[simp] theorem State.fetched_opcode (s : State) : s.fetched.opcode = s.wordAtPc := rfl

@[simp] theorem State.fetched_getV (s : State) (r : Reg) : s.fetched.getV r = s.getV r := rfl

@[simp] theorem State.fetched_readByte (s : State) (a : Address) : s.fetched.readByte a = s.readByte a := rfl

/-- A raised fault is never a next state. -/
theorem raiseAt_ne_next {report : Word → Word → Fault} {s t : State} : raiseAt report s ≠ .next t := nofun

/-- The two bytes of a word joined give the word back (R34). -/
theorem joinBytes_high_low (w : Word) : joinBytes (highByte w) (lowByte w) = w := by
  unfold joinBytes highByte lowByte
  ext i hi
  simp only [BitVec.getElem_append, BitVec.getElem_extractLsb']
  split <;> simp [BitVec.getLsbD_eq_getElem, show ¬ i < 8 → 8 + (i - 8) = i by omega, *]

/-- A word stored at `pc` is the word fetched there (R34, R43). -/
theorem State.wordAtPc_storeWordAtPc {s : State} (hm : memWf s.mem = true) (hpc : s.canFetch = true) (w : Word) :
    (s.storeWordAtPc w).wordAtPc = w := by
  have h := State.canFetch_iff.1 hpc
  have hne : (s.pc.setWidth 12 : Address) ≠ (s.pc + 1).setWidth 12 := by
    intro e
    have := congrArg BitVec.toNat e
    simp [BitVec.toNat_add] at this
    omega
  have hpc' : (s.storeWordAtPc w).pc = s.pc := rfl
  simp only [State.wordAtPc, hpc']
  simp only [State.storeWordAtPc, State.readByte_writeByte (State.memWf_writeByte hm _ _),
    State.readByte_writeByte hm, if_neg hne, if_true]
  exact joinBytes_high_low w

end Sys2Proof.Machine
end

