-- ==== Sys2Proof/Laws/Loops.lean ====
section
/-! SUPPORT. What the loops of `Fx55`, `Fx65` and `Dxyn` leave: the register stores and loads (spec/42_index_memory.md
R114, R115) and the drawing of a list of cells (spec/43_display.md R121, R122). -/

namespace Sys2Proof.Machine

/-! ### Stores of registers -/

/-- A loop of register stores changes main memory alone. -/
theorem foldl_storeReg_eq (rs : List Reg) (s : State) :
    rs.foldl storeReg s = { s with mem := (rs.foldl storeReg s).mem } := by
  induction rs generalizing s with
  | nil => rfl
  | cons r rs ih => rw [List.foldl_cons, ih]; rfl

theorem foldl_storeReg_wf (rs : List Reg) {s : State} (hm : memWf s.mem = true) :
    memWf (rs.foldl storeReg s).mem = true := by
  induction rs generalizing s with
  | nil => exact hm
  | cons r rs ih => exact ih (State.memWf_writeByte hm _ _)

/-- A cell no store of the loop names keeps its byte. -/
theorem foldl_storeReg_frame (rs : List Reg) {s : State} (hm : memWf s.mem = true) {a : Address}
    (ha : ∀ r ∈ rs, a ≠ ea s.i r.val) : (rs.foldl storeReg s).readByte a = s.readByte a := by
  induction rs generalizing s with
  | nil => rfl
  | cons r rs ih =>
    have hw : memWf (storeReg s r).mem = true := State.memWf_writeByte hm _ _
    refine (ih hw fun q hq => ha q (List.mem_cons_of_mem _ hq)).trans ?_
    rw [storeReg, State.readByte_writeByte hm, if_neg (ha r List.mem_cons_self)]

/-- Each cell the loop stores to holds its register (R114). -/
theorem foldl_storeReg_read (rs : List Reg) (hrs : rs.Nodup) {s : State} (hm : memWf s.mem = true) {r : Reg}
    (hr : r ∈ rs) : (rs.foldl storeReg s).readByte (ea s.i r.val) = s.getV r := by
  induction rs generalizing s with
  | nil => cases hr
  | cons q rs ih =>
    obtain ⟨hq, hrs⟩ := List.nodup_cons.1 hrs
    have hw : memWf (storeReg s q).mem = true := State.memWf_writeByte hm _ _
    rw [List.foldl_cons]
    rcases List.mem_cons.1 hr with rfl | hr
    · refine (foldl_storeReg_frame rs hw fun p hp e => ?_).trans ?_
      · have := (ea_inj (by omega) (by omega)).1 e
        exact hq (Fin.ext this ▸ hp)
      · rw [storeReg, State.readByte_writeByte hm, if_pos rfl]
    · exact ih hrs hw hr

/-! ### Loads of registers -/

/-- A loop of register loads changes the registers alone. -/
theorem foldl_loadReg_eq (rs : List Reg) (s : State) :
    rs.foldl loadReg s = { s with v := (rs.foldl loadReg s).v } := by
  induction rs generalizing s with
  | nil => rfl
  | cons r rs ih => rw [List.foldl_cons, ih]; rfl

/-- After the loop a listed register holds its cell, and any other its old value (R115). -/
theorem foldl_loadReg_getV (rs : List Reg) (s : State) (r : Reg) :
    (rs.foldl loadReg s).getV r = if r ∈ rs then s.readByte (ea s.i r.val) else s.getV r := by
  induction rs generalizing s with
  | nil => simp
  | cons q rs ih =>
    rw [List.foldl_cons, ih]
    by_cases hr : r ∈ rs
    · simp [hr, loadReg]
    · by_cases hq : r = q
      · subst hq; simp [hr, loadReg]
      · simp [hr, hq, loadReg]

/-! ### Drawing -/

/-- Drawing cells changes `V` and `video` alone. -/
theorem foldl_drawCell_eq (cs : List VideoCell) (s : State) :
    cs.foldl drawCell s = { s with v := (cs.foldl drawCell s).v, video := (cs.foldl drawCell s).video } := by
  induction cs generalizing s with
  | nil => rfl
  | cons c cs ih =>
    rw [List.foldl_cons, ih]
    simp only [drawCell]
    split <;> rfl

theorem drawCell_getV (s : State) (c : VideoCell) (r : Reg) :
    (drawCell s c).getV r = if r = vf ∧ s.pixel c = true then 1 else s.getV r := by
  unfold drawCell
  by_cases hp : s.pixel c <;> simp [hp, flagByte]

@[simp] theorem drawCell_pixel (s : State) (c d : VideoCell) :
    (drawCell s c).pixel d = if d = c then !s.pixel d else s.pixel d := by
  unfold drawCell
  split <;> simp

/-- Every drawn cell is inverted, every other unchanged, when no cell is drawn twice (R122). -/
theorem foldl_drawCell_pixel (cs : List VideoCell) (hcs : cs.Nodup) (s : State) (d : VideoCell) :
    (cs.foldl drawCell s).pixel d = if d ∈ cs then !s.pixel d else s.pixel d := by
  induction cs generalizing s with
  | nil => simp
  | cons c cs ih =>
    obtain ⟨hc, hcs⟩ := List.nodup_cons.1 hcs
    rw [List.foldl_cons, ih hcs, drawCell_pixel]
    by_cases hd : d = c
    · subst hd; simp [hc]
    · simp [hd]

/-- `VF` becomes 1 when some drawn cell was on, and no other register changes (R121, R122). -/
theorem foldl_drawCell_getV (cs : List VideoCell) (hcs : cs.Nodup) (s : State) (r : Reg) :
    (cs.foldl drawCell s).getV r = if r = vf ∧ (∃ c ∈ cs, s.pixel c = true) then 1 else s.getV r := by
  induction cs generalizing s with
  | nil => simp
  | cons c cs ih =>
    obtain ⟨hc, hcs⟩ := List.nodup_cons.1 hcs
    rw [List.foldl_cons, ih hcs, drawCell_getV]
    have hiff : (∃ d ∈ cs, (drawCell s c).pixel d = true) ↔ ∃ d ∈ cs, s.pixel d = true := by
      refine exists_congr fun d => and_congr_right fun hd => ?_
      rw [drawCell_pixel, if_neg (fun e : d = c => hc (e ▸ hd))]
    simp only [hiff]
    by_cases hr : r = vf <;> by_cases h1 : ∃ d ∈ cs, s.pixel d = true <;> by_cases h2 : s.pixel c = true <;>
      simp [hr, h1, h2]

/-- The cells sprite row `r` with byte `b` draws, in order. -/
def rowCells (px py : Nat) (b : Byte) : List VideoCell :=
  ((List.range 8).filter fun k => b.getLsbD (7 - k)).map fun k => cellAt (px + k) py

/-- The cells a sprite draws, in order (R121). -/
def spriteCells (s : State) (px py n : Nat) : List VideoCell :=
  (List.range n).flatMap fun r => rowCells px (py + r) (s.readByte (ea s.i r))

theorem foldl_drawColumn_eq (px py : Nat) (b : Byte) (ks : List Nat) (s : State) :
    ks.foldl (drawColumn px py b) s =
      ((ks.filter fun k => b.getLsbD (7 - k)).map fun k => cellAt (px + k) py).foldl drawCell s := by
  induction ks generalizing s with
  | nil => rfl
  | cons k ks ih =>
    rw [List.foldl_cons, ih]
    by_cases hk : b.getLsbD (7 - k) = true <;> simp [drawColumn, hk]

theorem drawRow_eq (px py : Nat) (s : State) (r : Nat) :
    drawRow px py s r = (rowCells px (py + r) (s.readByte (ea s.i r))).foldl drawCell s :=
  foldl_drawColumn_eq _ _ _ _ _

/-- Drawing row by row draws the sprite's cells in order; the sprite bytes are those of the state before (R122). -/
theorem foldl_drawRow_eq (px py : Nat) (rs : List Nat) (s : State) :
    rs.foldl (drawRow px py) s =
      (rs.flatMap fun r => rowCells px (py + r) (s.readByte (ea s.i r))).foldl drawCell s := by
  induction rs generalizing s with
  | nil => rfl
  | cons r rs ih =>
    rw [List.foldl_cons, ih, List.flatMap_cons, List.foldl_append, ← drawRow_eq]
    have h : ∀ q, (drawRow px py s r).readByte (ea (drawRow px py s r).i q) = s.readByte (ea s.i q) := by
      intro q
      rw [drawRow_eq, foldl_drawCell_eq]
      rfl
    simp only [h]

theorem mem_spriteCells {s : State} {px py n : Nat} {c : VideoCell} :
    c ∈ spriteCells s px py n ↔
      ∃ r k, r < n ∧ k < 8 ∧ (s.readByte (ea s.i r)).getLsbD (7 - k) = true ∧ c = cellAt (px + k) (py + r) := by
  simp only [spriteCells, rowCells, List.mem_flatMap, List.mem_range, List.mem_map, List.mem_filter]
  constructor
  · rintro ⟨r, hr, k, ⟨hk, hb⟩, rfl⟩; exact ⟨r, k, hr, hk, hb, rfl⟩
  · rintro ⟨r, k, hr, hk, hb, rfl⟩; exact ⟨r, hr, k, ⟨hk, hb⟩, rfl⟩

/-- Two pixels of one sprite are two cells (R122): at most 8 columns of 64 and at most 32 rows of 32. -/
theorem cellAt_inj {px py r r' k k' : Nat} (hr : r < 32) (hr' : r' < 32) (hk : k < 8) (hk' : k' < 8)
    (h : cellAt (px + k) (py + r) = cellAt (px + k') (py + r')) : r = r' ∧ k = k' := by
  simp only [cellAt, Fin.mk.injEq, Config.videoH, Config.videoW] at h
  omega

theorem nodup_spriteCells (s : State) (px py : Nat) {n : Nat} (hn : n ≤ 32) : (spriteCells s px py n).Nodup := by
  unfold spriteCells rowCells
  rw [List.nodup_flatMap]
  constructor
  · intro r hr
    have hr' : r < n := List.mem_range.1 hr
    refine List.Nodup.map_on ?_ ((List.nodup_range).filter _)
    intro k hk k' hk' h
    simp only [List.mem_filter, List.mem_range] at hk hk'
    exact (cellAt_inj (by omega) (by omega) hk.1 hk'.1 h).2
  · refine List.Pairwise.imp_of_mem ?_ List.nodup_range
    intro r r' hr hr' hne c hc hc'
    simp only [List.mem_map, List.mem_filter, List.mem_range] at hc hc' hr hr'
    obtain ⟨k, ⟨hk, -⟩, rfl⟩ := hc
    obtain ⟨k', ⟨hk', -⟩, h⟩ := hc'
    exact hne (cellAt_inj (by omega) (by omega) hk' hk h).1.symm

end Sys2Proof.Machine
end

