-- ==== Sys2Proof/Laws/Instr.lean ====
section
/-! SUPPORT. The meanings that branch or loop, one equation per outcome, so that no proof unfolds them: `00EE`, `2nnn`
(spec/40_control_flow.md), `Ex9E`, `ExA1`, `Fx0A` (spec/44_keypad_timers.md), `Dxyn` (spec/43_display.md). -/

namespace Sys2Proof.Machine

theorem execRet_of_pos {s : State} (h : s.sp.val ≠ 0) : execRet s = .next (s.dropTop.setPc s.topOfStack) :=
  if_neg fun e => h (by rw [e]; rfl)

theorem execRet_of_empty {s : State} (h : s.sp.val = 0) :
    execRet s = .fault (.stackUnderflow s.opcode (s.pc - 2)) := if_pos (Fin.ext h)

theorem execCall_of_lt (nnn : Address) {s : State} (h : s.sp.val < 16) :
    execCall nnn s = .next ((s.push s.pc h).setPc (nnn.setWidth 16)) := dif_pos h

theorem execCall_of_full (nnn : Address) {s : State} (h : s.sp.val = 16) :
    execCall nnn s = .fault (.stackOverflow s.opcode (s.pc - 2)) := dif_neg (by omega)

theorem skipOnKey_of_lt (want : Bool) (x : Reg) {s : State} (h : (s.getV x).toNat < 16) :
    skipOnKey want x s = .next (s.skipIf (keyPressed s.keys ⟨(s.getV x).toNat, h⟩ == want)) := dif_pos h

theorem skipOnKey_of_ge (want : Bool) (x : Reg) {s : State} (h : 16 ≤ (s.getV x).toNat) :
    skipOnKey want x s = .fault (.keypadIndexOutOfRange s.opcode (s.pc - 2) (s.getV x)) := dif_neg (by omega)

theorem execLdVxK_of_none (x : Reg) {s : State} (h : selectKey s.keys = none) :
    execLdVxK x s = .next (s.setPc (s.pc - 2)) := by simp [execLdVxK, h]

theorem execLdVxK_of_some (x : Reg) {s : State} {k : Key} (h : selectKey s.keys = some k) :
    execLdVxK x s = .next (s.setV x (BitVec.ofNat 8 k.val)) := by simp [execLdVxK, h]

/-- `Dxyn` clears `VF` and draws the sprite's cells, the position read before (R121). -/
theorem execDrw_eq (x y : Reg) (n : RowCount) (s : State) :
    execDrw x y n s = .next ((spriteCells (s.setFlag 0) (startColumn (s.getV x)) (startRow (s.getV y)) n.val).foldl
      drawCell (s.setFlag 0)) := by
  simp only [execDrw, foldl_drawRow_eq]
  rfl

end Sys2Proof.Machine
end

