-- ==== Sys2Proof/Laws/PerInstr.lean ====
section
/-! SUPPORT. Per instruction, as syntax: its row stands in the opcode map and selects its encoding
(spec/30_encoding.md R56, R58). -/

namespace Sys2Proof.Laws

/-- A row whose fixed bits are the family selects every word of format `A` of that family. -/
theorem and_formA (f m p : BitVec 4) (a : Address) (h : f &&& m = p) :
    formA f a &&& (m ++ 0#12) = p ++ 0#12 := by
  subst h
  exact BitVec.and_append.trans (by rw [BitVec.and_zero])

/-- The same for format `XK`, with a mask on the low byte. -/
theorem and_formXK (f m p : BitVec 4) (x : Reg) (k mk pk : Byte) (h : f &&& m = p) (hk : k &&& mk = pk) :
    formXK f x k &&& (m ++ 0#4 ++ mk) = p ++ 0#4 ++ pk := by
  subst h hk
  exact BitVec.and_append.trans (by rw [BitVec.and_append, BitVec.and_zero])

/-- The same for formats `XY` and `XYN`, with a mask on the lowest nibble. -/
theorem and_formXYN (f m p : BitVec 4) (x y : Reg) (k mk pk : BitVec 4) (h : f &&& m = p) (hk : k &&& mk = pk) :
    formXYN f x y k &&& (m ++ 0#4 ++ 0#4 ++ mk) = p ++ 0#4 ++ 0#4 ++ pk := by
  subst h hk
  exact BitVec.and_append.trans (by rw [BitVec.and_append, BitVec.and_append, BitVec.and_zero, BitVec.and_zero])

/-- The instruction's row is a row of the opcode map, and its encoding selects it. -/
def RowFits.Statement (i : Instr) : Prop := i.row ∈ opcodeTable ∧ i.row.selects (encode i) = true

namespace RowFits

theorem cls : Statement .cls :=
  ⟨(by decide : (⟨0xFFFF, 0x00E0⟩ : OpcodeRow) ∈ opcodeTable),
   by decide⟩

theorem ret : Statement .ret :=
  ⟨(by decide : (⟨0xFFFF, 0x00EE⟩ : OpcodeRow) ∈ opcodeTable),
   by decide⟩

theorem jp (nnn : Address) : Statement (.jp nnn) :=
  ⟨(by decide : (⟨0xF000, 0x1000⟩ : OpcodeRow) ∈ opcodeTable),
   beq_iff_eq.2 (and_formA 0x1 0xF 0x1 nnn rfl)⟩

theorem call (nnn : Address) : Statement (.call nnn) :=
  ⟨(by decide : (⟨0xF000, 0x2000⟩ : OpcodeRow) ∈ opcodeTable),
   beq_iff_eq.2 (and_formA 0x2 0xF 0x2 nnn rfl)⟩

theorem seImm (x : Reg) (kk : Byte) : Statement (.seImm x kk) :=
  ⟨(by decide : (⟨0xF000, 0x3000⟩ : OpcodeRow) ∈ opcodeTable),
   beq_iff_eq.2 (and_formXK 0x3 0xF 0x3 x kk 0 0 rfl (by simp))⟩

theorem sneImm (x : Reg) (kk : Byte) : Statement (.sneImm x kk) :=
  ⟨(by decide : (⟨0xF000, 0x4000⟩ : OpcodeRow) ∈ opcodeTable),
   beq_iff_eq.2 (and_formXK 0x4 0xF 0x4 x kk 0 0 rfl (by simp))⟩

theorem seReg (x y : Reg) : Statement (.seReg x y) :=
  ⟨(by decide : (⟨0xF00F, 0x5000⟩ : OpcodeRow) ∈ opcodeTable),
   beq_iff_eq.2 (and_formXYN 0x5 0xF 0x5 x y 0x0 0xF 0x0 rfl rfl)⟩

theorem ldImm (x : Reg) (kk : Byte) : Statement (.ldImm x kk) :=
  ⟨(by decide : (⟨0xF000, 0x6000⟩ : OpcodeRow) ∈ opcodeTable),
   beq_iff_eq.2 (and_formXK 0x6 0xF 0x6 x kk 0 0 rfl (by simp))⟩

theorem addImm (x : Reg) (kk : Byte) : Statement (.addImm x kk) :=
  ⟨(by decide : (⟨0xF000, 0x7000⟩ : OpcodeRow) ∈ opcodeTable),
   beq_iff_eq.2 (and_formXK 0x7 0xF 0x7 x kk 0 0 rfl (by simp))⟩

theorem ldReg (x y : Reg) : Statement (.ldReg x y) :=
  ⟨(by decide : (⟨0xF00F, 0x8000⟩ : OpcodeRow) ∈ opcodeTable),
   beq_iff_eq.2 (and_formXYN 0x8 0xF 0x8 x y 0x0 0xF 0x0 rfl rfl)⟩

theorem orReg (x y : Reg) : Statement (.orReg x y) :=
  ⟨(by decide : (⟨0xF00F, 0x8001⟩ : OpcodeRow) ∈ opcodeTable),
   beq_iff_eq.2 (and_formXYN 0x8 0xF 0x8 x y 0x1 0xF 0x1 rfl rfl)⟩

theorem andReg (x y : Reg) : Statement (.andReg x y) :=
  ⟨(by decide : (⟨0xF00F, 0x8002⟩ : OpcodeRow) ∈ opcodeTable),
   beq_iff_eq.2 (and_formXYN 0x8 0xF 0x8 x y 0x2 0xF 0x2 rfl rfl)⟩

theorem xorReg (x y : Reg) : Statement (.xorReg x y) :=
  ⟨(by decide : (⟨0xF00F, 0x8003⟩ : OpcodeRow) ∈ opcodeTable),
   beq_iff_eq.2 (and_formXYN 0x8 0xF 0x8 x y 0x3 0xF 0x3 rfl rfl)⟩

theorem addReg (x y : Reg) : Statement (.addReg x y) :=
  ⟨(by decide : (⟨0xF00F, 0x8004⟩ : OpcodeRow) ∈ opcodeTable),
   beq_iff_eq.2 (and_formXYN 0x8 0xF 0x8 x y 0x4 0xF 0x4 rfl rfl)⟩

theorem sub (x y : Reg) : Statement (.sub x y) :=
  ⟨(by decide : (⟨0xF00F, 0x8005⟩ : OpcodeRow) ∈ opcodeTable),
   beq_iff_eq.2 (and_formXYN 0x8 0xF 0x8 x y 0x5 0xF 0x5 rfl rfl)⟩

theorem shr (x y : Reg) : Statement (.shr x y) :=
  ⟨(by decide : (⟨0xF00F, 0x8006⟩ : OpcodeRow) ∈ opcodeTable),
   beq_iff_eq.2 (and_formXYN 0x8 0xF 0x8 x y 0x6 0xF 0x6 rfl rfl)⟩

theorem subn (x y : Reg) : Statement (.subn x y) :=
  ⟨(by decide : (⟨0xF00F, 0x8007⟩ : OpcodeRow) ∈ opcodeTable),
   beq_iff_eq.2 (and_formXYN 0x8 0xF 0x8 x y 0x7 0xF 0x7 rfl rfl)⟩

theorem shl (x y : Reg) : Statement (.shl x y) :=
  ⟨(by decide : (⟨0xF00F, 0x800E⟩ : OpcodeRow) ∈ opcodeTable),
   beq_iff_eq.2 (and_formXYN 0x8 0xF 0x8 x y 0xE 0xF 0xE rfl rfl)⟩

theorem sneReg (x y : Reg) : Statement (.sneReg x y) :=
  ⟨(by decide : (⟨0xF00F, 0x9000⟩ : OpcodeRow) ∈ opcodeTable),
   beq_iff_eq.2 (and_formXYN 0x9 0xF 0x9 x y 0x0 0xF 0x0 rfl rfl)⟩

theorem ldI (nnn : Address) : Statement (.ldI nnn) :=
  ⟨(by decide : (⟨0xF000, 0xA000⟩ : OpcodeRow) ∈ opcodeTable),
   beq_iff_eq.2 (and_formA 0xA 0xF 0xA nnn rfl)⟩

theorem jpV0 (nnn : Address) : Statement (.jpV0 nnn) :=
  ⟨(by decide : (⟨0xF000, 0xB000⟩ : OpcodeRow) ∈ opcodeTable),
   beq_iff_eq.2 (and_formA 0xB 0xF 0xB nnn rfl)⟩

theorem rnd (x : Reg) (kk : Byte) : Statement (.rnd x kk) :=
  ⟨(by decide : (⟨0xF000, 0xC000⟩ : OpcodeRow) ∈ opcodeTable),
   beq_iff_eq.2 (and_formXK 0xC 0xF 0xC x kk 0 0 rfl (by simp))⟩

theorem drw (x y : Reg) (n : RowCount) : Statement (.drw x y n) :=
  ⟨(by decide : (⟨0xF000, 0xD000⟩ : OpcodeRow) ∈ opcodeTable),
   beq_iff_eq.2 (and_formXYN 0xD 0xF 0xD x y (BitVec.ofFin n) 0 0 rfl (by simp))⟩

theorem skp (x : Reg) : Statement (.skp x) :=
  ⟨(by decide : (⟨0xF0FF, 0xE09E⟩ : OpcodeRow) ∈ opcodeTable),
   beq_iff_eq.2 (and_formXK 0xE 0xF 0xE x 0x9E 0xFF 0x9E rfl rfl)⟩

theorem sknp (x : Reg) : Statement (.sknp x) :=
  ⟨(by decide : (⟨0xF0FF, 0xE0A1⟩ : OpcodeRow) ∈ opcodeTable),
   beq_iff_eq.2 (and_formXK 0xE 0xF 0xE x 0xA1 0xFF 0xA1 rfl rfl)⟩

theorem ldVxDt (x : Reg) : Statement (.ldVxDt x) :=
  ⟨(by decide : (⟨0xF0FF, 0xF007⟩ : OpcodeRow) ∈ opcodeTable),
   beq_iff_eq.2 (and_formXK 0xF 0xF 0xF x 0x07 0xFF 0x07 rfl rfl)⟩

theorem ldVxK (x : Reg) : Statement (.ldVxK x) :=
  ⟨(by decide : (⟨0xF0FF, 0xF00A⟩ : OpcodeRow) ∈ opcodeTable),
   beq_iff_eq.2 (and_formXK 0xF 0xF 0xF x 0x0A 0xFF 0x0A rfl rfl)⟩

theorem ldDtVx (x : Reg) : Statement (.ldDtVx x) :=
  ⟨(by decide : (⟨0xF0FF, 0xF015⟩ : OpcodeRow) ∈ opcodeTable),
   beq_iff_eq.2 (and_formXK 0xF 0xF 0xF x 0x15 0xFF 0x15 rfl rfl)⟩

theorem ldStVx (x : Reg) : Statement (.ldStVx x) :=
  ⟨(by decide : (⟨0xF0FF, 0xF018⟩ : OpcodeRow) ∈ opcodeTable),
   beq_iff_eq.2 (and_formXK 0xF 0xF 0xF x 0x18 0xFF 0x18 rfl rfl)⟩

theorem addI (x : Reg) : Statement (.addI x) :=
  ⟨(by decide : (⟨0xF0FF, 0xF01E⟩ : OpcodeRow) ∈ opcodeTable),
   beq_iff_eq.2 (and_formXK 0xF 0xF 0xF x 0x1E 0xFF 0x1E rfl rfl)⟩

theorem ldF (x : Reg) : Statement (.ldF x) :=
  ⟨(by decide : (⟨0xF0FF, 0xF029⟩ : OpcodeRow) ∈ opcodeTable),
   beq_iff_eq.2 (and_formXK 0xF 0xF 0xF x 0x29 0xFF 0x29 rfl rfl)⟩

theorem ldB (x : Reg) : Statement (.ldB x) :=
  ⟨(by decide : (⟨0xF0FF, 0xF033⟩ : OpcodeRow) ∈ opcodeTable),
   beq_iff_eq.2 (and_formXK 0xF 0xF 0xF x 0x33 0xFF 0x33 rfl rfl)⟩

theorem ldMemVx (x : Reg) : Statement (.ldMemVx x) :=
  ⟨(by decide : (⟨0xF0FF, 0xF055⟩ : OpcodeRow) ∈ opcodeTable),
   beq_iff_eq.2 (and_formXK 0xF 0xF 0xF x 0x55 0xFF 0x55 rfl rfl)⟩

theorem ldVxMem (x : Reg) : Statement (.ldVxMem x) :=
  ⟨(by decide : (⟨0xF0FF, 0xF065⟩ : OpcodeRow) ∈ opcodeTable),
   beq_iff_eq.2 (and_formXK 0xF 0xF 0xF x 0x65 0xFF 0x65 rfl rfl)⟩

end RowFits

end Sys2Proof.Laws
end

