-- ==== Sys2Proof/Laws/Step.lean ====
section
/-! SUPPORT. What a step can do, once: a next state comes from the fetched instruction, and a fault is the fetch's, the
dispatch's or the instruction's; and what a reset within a run does. -/

namespace Sys2Proof.Machine

/-- A step that answers a next state fetched in range, decoded an instruction and executed it (R51). -/
theorem step_next {s t : State} (h : step s = .next t) :
    s.canFetch = true ∧ ∃ i, decodeWord s.wordAtPc = some i ∧ exec i s.fetched = .next t := by
  unfold step at h
  split at h
  · refine ⟨‹_›, ?_⟩
    unfold runFetched at h
    split at h
    · exact ⟨_, ‹_›, h⟩
    · cases h
  · cases h

/-- A step that faults: at fetch, at dispatch or at execute (R147). -/
theorem step_fault {s : State} {f : Fault} (h : step s = .fault f) :
    (s.canFetch = false ∧ f = .fetchOutOfRange s.pc) ∨
    (s.canFetch = true ∧ decodeWord s.wordAtPc = none ∧ f = .unknownInstruction s.wordAtPc (s.pc + 2 - 2)) ∨
    (s.canFetch = true ∧ ∃ i, decodeWord s.wordAtPc = some i ∧ exec i s.fetched = .fault f) := by
  unfold step at h
  split at h
  · right
    unfold runFetched at h
    split at h
    · exact .inr ⟨‹_›, _, ‹_›, h⟩
    · cases h
      exact .inl ⟨‹_›, ‹_›, rfl⟩
  · cases h
    exact .inl ⟨by simpa using ‹¬ s.canFetch = true›, rfl⟩

@[simp] theorem resetFrom_draws (s : State) : (resetFrom s).draws = s.draws := rfl

/-- A reset before any byte is drawn gives the reset state (R160). -/
theorem resetFrom_of_draws_zero {s : State} (h : s.draws = 0) : resetFrom s = State.reset := by
  rw [resetFrom, h]; rfl

/-- A reset has its effect on every run, ended or not (R149, R160). -/
@[simp] theorem perform_reset (r : Session) : perform .reset r = (⟨resetFrom r.machine, none⟩, .done) := by
  rcases r with ⟨_, _ | _⟩ <;> rfl

/-- Every other operation leaves a run that a fault has ended as it is (R149). -/
theorem perform_of_ended {op : HostOp} {r : Session} {f : Fault} (h : r.ended = some f) (hop : op ≠ .reset) :
    perform op r = (r, .ended f) := by
  rcases r with ⟨s, _ | g⟩ <;> cases h
  cases op <;> first | rfl | exact absurd rfl hop

end Sys2Proof.Machine
end

