-- ==== Sys2Proof/Tests/Slice0.lean ====
section
/-! SUPPORT. Tests of the model. The expected results are the spec's own vectors (spec/95_test_vectors.md, cited by id);
then, for each obligation with hypotheses, a concrete input that meets them. -/

namespace Sys2Proof.Tests

open Sys2Proof Sys2Proof.Machine

/-! ### Well-formed words: one ill-formed word for each check, refused; words of the same family, accepted -/

theorem test_illFormed_family0 : wellFormedWord 0x0000 = false ∧ wellFormedWord 0x0123 = false := by decide
theorem test_illFormed_family0_exact : wellFormedWord 0x01E0 = false ∧ wellFormedWord 0x0FEE = false := by decide
theorem test_illFormed_family5 : wellFormedWord 0x5AB1 = false ∧ wellFormedWord 0x5AB0 = true := by decide
theorem test_illFormed_family8 : wellFormedWord 0x8AB8 = false ∧ wellFormedWord 0x8ABE = true := by decide
theorem test_illFormed_family9 : wellFormedWord 0x912F = false ∧ wellFormedWord 0x9120 = true := by decide
theorem test_illFormed_familyE : wellFormedWord 0xEA9F = false ∧ wellFormedWord 0xEA9E = true := by decide
theorem test_illFormed_familyF : wellFormedWord 0xFFFF = false ∧ wellFormedWord 0xFF65 = true := by decide
/-- A register number of an instruction is one of sixteen by its type, so a term cannot name a seventeenth. -/
theorem test_registerNumbers : ∀ r : Reg, r.val < 16 := by decide

/-! ### Decode: a word of every instruction, written out from its format (spec/30_encoding.md R56, R58) -/

theorem test_decode_cls : decodeWord 0x00E0 = some .cls := by decide
theorem test_decode_ret : decodeWord 0x00EE = some .ret := by decide
theorem test_decode_jp : decodeWord 0x10E0 = some (.jp 0x0E0) := by decide
theorem test_decode_call : decodeWord 0x2ABC = some (.call 0xABC) := by decide
theorem test_decode_seImm : decodeWord 0x3A42 = some (.seImm 10 0x42) := by decide
theorem test_decode_sneImm : decodeWord 0x4A42 = some (.sneImm 10 0x42) := by decide
theorem test_decode_seReg : decodeWord 0x5AB0 = some (.seReg 10 11) := by decide
theorem test_decode_ldImm : decodeWord 0x6AFF = some (.ldImm 10 0xFF) := by decide
theorem test_decode_addImm : decodeWord 0x7301 = some (.addImm 3 0x01) := by decide
theorem test_decode_ldReg : decodeWord 0x8120 = some (.ldReg 1 2) := by decide
theorem test_decode_orReg : decodeWord 0x8121 = some (.orReg 1 2) := by decide
theorem test_decode_andReg : decodeWord 0x8122 = some (.andReg 1 2) := by decide
theorem test_decode_xorReg : decodeWord 0x8123 = some (.xorReg 1 2) := by decide
theorem test_decode_addReg : decodeWord 0x8AB4 = some (.addReg 10 11) := by decide
theorem test_decode_sub : decodeWord 0x8125 = some (.sub 1 2) := by decide
theorem test_decode_shr : decodeWord 0x83A6 = some (.shr 3 10) := by decide
theorem test_decode_subn : decodeWord 0x8127 = some (.subn 1 2) := by decide
theorem test_decode_shl : decodeWord 0x812E = some (.shl 1 2) := by decide
theorem test_decode_sneReg : decodeWord 0x9120 = some (.sneReg 1 2) := by decide
theorem test_decode_ldI : decodeWord 0xA300 = some (.ldI 0x300) := by decide
theorem test_decode_jpV0 : decodeWord 0xBFFE = some (.jpV0 0xFFE) := by decide
theorem test_decode_rnd : decodeWord 0xC10F = some (.rnd 1 0x0F) := by decide
theorem test_decode_drw : decodeWord 0xD12F = some (.drw 1 2 15) := by decide
theorem test_decode_skp : decodeWord 0xEA9E = some (.skp 10) := by decide
theorem test_decode_sknp : decodeWord 0xEAA1 = some (.sknp 10) := by decide
theorem test_decode_ldVxDt : decodeWord 0xFA07 = some (.ldVxDt 10) := by decide
theorem test_decode_ldVxK : decodeWord 0xFA0A = some (.ldVxK 10) := by decide
theorem test_decode_ldDtVx : decodeWord 0xFA15 = some (.ldDtVx 10) := by decide
theorem test_decode_ldStVx : decodeWord 0xFA18 = some (.ldStVx 10) := by decide
theorem test_decode_addI : decodeWord 0xFA1E = some (.addI 10) := by decide
theorem test_decode_ldF : decodeWord 0xFA29 = some (.ldF 10) := by decide
theorem test_decode_ldB : decodeWord 0xFA33 = some (.ldB 10) := by decide
theorem test_decode_ldMemVx : decodeWord 0xFA55 = some (.ldMemVx 10) := by decide
theorem test_decode_ldVxMem : decodeWord 0xFA65 = some (.ldVxMem 10) := by decide

/-- The first byte in memory is the high byte (R34); the bytes after the word are left. -/
theorem test_decodeBytes_bigEndian :
    (decodeBytes [0xA3, 0x00, 0x12]).toOption = some (.ldI 0x300, [0x12]) := by decide
theorem test_decodeBytes_truncated : decodeBytes [0xA3] = .error .truncated := by rfl
theorem test_decodeTableWord : decodeTableWord 16 0xA300 = some (.ldI 0x300) ∧ decodeTableWord 16 0x0123 = none := by
  decide
/-- V-E8, V-E11, V-E13. -/
theorem test_decode_unknown :
    ([0x8AB8, 0x8AB9, 0x8ABA, 0x8ABD, 0x8ABF, 0xEAA0, 0xEA00, 0xFA00, 0xFA0B, 0xFA1F, 0xFA75, 0xFA85, 0xFFFF] :
      List Word).all (fun w => (decodeWord w).isNone) = true := by decide

/-! ### One step -/

/-- The state after reset with one instruction word at `0x200`. -/
def at200 (w : Nat) : State := State.reset.withFetchWord 16 w

/-- The state after reset with `pc` moved and one instruction word there. -/
def atPc (pc : Word) (w : Nat) : State := (State.reset.setPc pc).withFetchWord 16 w

/-- The outcome is a next state that passes. -/
def gives (o : Result) (p : State → Bool) : Bool :=
  match o with
  | .next t => p t
  | _ => false

/-- The outcome is that fault. -/
def faultsWith (o : Result) (f : Fault) : Bool :=
  match o with
  | .fault e => e == f
  | _ => false

/-- The sixteen keys with those of the list pressed. -/
def pressing (l : List (Fin 16)) : Vector Bool 16 := l.foldl (fun k j => k.set j.val true) (Vector.replicate 16 false)

/-- V-D14. -/
theorem test_step_cls :
    gives (step (((at200 0x00E0).setV 15 1).setVideo (blankVideo.set 0 0x21 |>.set 31 (0x1 <<< 63))))
      (fun t => t.video == blankVideo && t.getV 15 == 1 && t.pc == 0x202) = true := by decide
/-- V-C1. -/
theorem test_step_ret :
    gives (step { at200 0x00EE with sp := 2, stack := State.reset.stack.set 0 0x202 |>.set 1 0xABC })
      (fun t => t.pc == 0xABC && t.sp == 1 && t.stack[1] == 0xABC) = true := by decide
/-- V-C2. -/
theorem test_step_ret_underflow :
    (cycle (at200 0x00EE)).2 = .fault (.stackUnderflow 0x00EE 0x200) ∧ (cycle (at200 0x00EE)).1.pc = 0x202 := by decide
/-- V-C4. -/
theorem test_step_jp : gives (step (at200 0x1ABC)) (fun t => t.pc == 0xABC) = true := by decide
/-- V-C8. -/
theorem test_step_call :
    gives (step { atPc 0xFFE 0x2ABC with sp := 15 })
      (fun t => t.pc == 0xABC && t.sp == 16 && t.stack[15] == 0x1000) = true := by decide
/-- V-C9, V-F9. -/
theorem test_step_call_overflow :
    (cycle { at200 0x2ABC with sp := 16 }).2 = .fault (.stackOverflow 0x2ABC 0x200) ∧
    (cycle { at200 0x2ABC with sp := 16 }).1.pc = 0x202 := by decide
/-- V-C10. -/
theorem test_step_seImm_taken :
    gives (step ((at200 0x3A42).setV 10 0x42)) (fun t => t.pc == 0x204) = true := by decide
/-- V-C11. -/
theorem test_step_seImm_not :
    gives (step ((at200 0x3A42).setV 10 0x43)) (fun t => t.pc == 0x202) = true := by decide
/-- V-C12. -/
theorem test_step_sneImm_not :
    gives (step ((at200 0x4A42).setV 10 0x42)) (fun t => t.pc == 0x202) = true := by decide
/-- V-C13. -/
theorem test_step_sneImm_taken :
    gives (step ((at200 0x4A42).setV 10 0x43)) (fun t => t.pc == 0x204) = true := by decide
/-- V-C15. -/
theorem test_step_seReg_not :
    gives (step (((at200 0x5120).setV 1 7).setV 2 8)) (fun t => t.pc == 0x202) = true := by decide
/-- V-C16. -/
theorem test_step_seReg_taken :
    gives (step ((at200 0x5330).setV 3 0x99)) (fun t => t.pc == 0x204) = true := by decide
/-- V-C17. -/
theorem test_step_sneReg_not :
    gives (step (((at200 0x9120).setV 1 7).setV 2 7)) (fun t => t.pc == 0x202) = true := by decide
/-- V-C18. -/
theorem test_step_sneReg_taken :
    gives (step (((at200 0x9120).setV 1 7).setV 2 8)) (fun t => t.pc == 0x204) = true := by decide
/-- V-C20. -/
theorem test_step_jpV0 : gives (step ((at200 0xBFFF).setV 0 0xFF)) (fun t => t.pc == 0x0FE) = true := by decide
/-- V-A1. -/
theorem test_step_ldImm : gives (step (at200 0x6AFF)) (fun t => t.getV 10 == 0xFF && t.pc == 0x202) = true := by decide
/-- V-C24: an odd `pc` is legal. -/
theorem test_step_ldImm_odd :
    gives (step (atPc 0x201 0x6A55)) (fun t => t.getV 10 == 0x55 && t.pc == 0x203) = true := by decide
/-- V-A3. -/
theorem test_step_addImm :
    gives (step (((at200 0x7A01).setV 10 0xFF).setV 15 7)) (fun t => t.getV 10 == 0 && t.getV 15 == 7) = true := by decide
/-- V-A6. -/
theorem test_step_ldReg :
    gives (step (((at200 0x8120).setV 1 1).setV 2 0xEE)) (fun t => t.getV 1 == 0xEE && t.getV 2 == 0xEE) = true := by
  decide
/-- V-A8. -/
theorem test_step_orReg :
    gives (step ((((at200 0x8121).setV 1 0xF0).setV 2 0x0F).setV 15 5))
      (fun t => t.getV 1 == 0xFF && t.getV 15 == 5) = true := by decide
/-- V-A9. -/
theorem test_step_andReg :
    gives (step ((((at200 0x8122).setV 1 0xFC).setV 2 0x3F).setV 15 5))
      (fun t => t.getV 1 == 0x3C && t.getV 15 == 5) = true := by decide
/-- V-A10. -/
theorem test_step_xorReg :
    gives (step ((((at200 0x8123).setV 1 0xFF).setV 2 0x0F).setV 15 5))
      (fun t => t.getV 1 == 0xF0 && t.getV 15 == 5) = true := by decide
/-- V-A13. -/
theorem test_step_addReg_noCarry :
    gives (step ((((at200 0x8124).setV 1 0x80).setV 2 0x7F).setV 15 1))
      (fun t => t.getV 1 == 0xFF && t.getV 15 == 0) = true := by decide
/-- V-A18. -/
theorem test_step_addReg_oldFlagOperand :
    gives (step (((at200 0x82F4).setV 2 0xF0).setV 15 0x20))
      (fun t => t.getV 2 == 0x10 && t.getV 15 == 1) = true := by decide
/-- V-A22. -/
theorem test_step_sub_equal :
    gives (step ((((at200 0x8125).setV 1 0x42).setV 2 0x42).setV 15 1))
      (fun t => t.getV 1 == 0 && t.getV 15 == 0) = true := by decide
/-- V-A24. -/
theorem test_step_sub_newFlagOperand :
    gives (step (((at200 0x82F5).setV 2 5).setV 15 3)) (fun t => t.getV 2 == 4 && t.getV 15 == 1) = true := by decide
/-- V-A29. -/
theorem test_step_shr :
    gives (step ((((at200 0x8126).setV 1 4).setV 2 0xFF).setV 15 1))
      (fun t => t.getV 1 == 2 && t.getV 2 == 0xFF && t.getV 15 == 0) = true := by decide
/-- V-A31. -/
theorem test_step_shr_flag : gives (step ((at200 0x8F06).setV 15 7)) (fun t => t.getV 15 == 0) = true := by decide
/-- V-A32. -/
theorem test_step_subn :
    gives (step (((at200 0x8127).setV 1 1).setV 2 0x10)) (fun t => t.getV 1 == 0x0F && t.getV 15 == 1) = true := by decide
/-- V-A37. -/
theorem test_step_subn_flag :
    gives (step (((at200 0x8F17).setV 15 4).setV 1 9)) (fun t => t.getV 15 == 8) = true := by decide
/-- V-A39. -/
theorem test_step_shl :
    gives (step ((at200 0x810E).setV 1 0x81)) (fun t => t.getV 1 == 2 && t.getV 15 == 1) = true := by decide
/-- V-A41. -/
theorem test_step_shl_flag : gives (step ((at200 0x8F0E).setV 15 0x81)) (fun t => t.getV 15 == 2) = true := by decide
/-- V-A44: with mask 0 the result is 0 whatever byte is drawn. -/
theorem test_exec_rnd (s : State) : ∃ t, exec (.rnd 1 0x00) s = .next t ∧ t.getV 1 = 0 :=
  ⟨_, rfl, by simp [State.countDraw, State.setV, State.getV]⟩
/-- V-M3. -/
theorem test_step_ldI : gives (step (at200 0xAFFF)) (fun t => t.i == 0xFFF) = true := by decide
/-- V-M6. -/
theorem test_step_addI :
    gives (step (((at200 0xF21E).setI 0xF80).setV 2 0xFF)) (fun t => t.i == 0x07F && t.getV 15 == 0) = true := by decide
/-- V-M8. -/
theorem test_step_ldF : gives (step ((at200 0xF429).setV 4 0x0A)) (fun t => t.i == 0x082) = true := by decide
/-- V-M13. -/
theorem test_step_ldF_whole : gives (step ((at200 0xF429).setV 4 0xFF)) (fun t => t.i == 0x54B) = true := by decide
/-- V-M14. -/
theorem test_step_ldB :
    gives (step (((at200 0xF533).setV 5 0x9C).setI 0x400))
      (fun t => [t.readByte 0x400, t.readByte 0x401, t.readByte 0x402] == [1, 5, 6]) = true := by decide
/-- V-M18. -/
theorem test_step_ldB_wraps :
    gives (step (((at200 0xF533).setV 5 0xFF).setI 0xFFE))
      (fun t => [t.readByte 0xFFE, t.readByte 0xFFF, t.readByte 0x000] == [2, 5, 5]) = true := by decide
/-- V-M19. -/
theorem test_step_ldMemVx :
    gives (step { at200 0xF255 with v := State.reset.v.set 0 0x11 |>.set 1 0x22 |>.set 2 0x33 |>.set 3 0x44, i := 0x500 })
      (fun t => (List.range 4).map (fun k => memRead t.mem (0x500 + k)) == [0x11, 0x22, 0x33, 0] && t.i == 0x500) = true :=
  by decide
/-- V-M22: the store covers the instruction just executed. -/
theorem test_step_ldMemVx_code :
    gives (step { at200 0xF155 with v := State.reset.v.set 0 0x12 |>.set 1 0x34, i := 0x200 })
      (fun t => t.readByte 0x200 == 0x12 && t.readByte 0x201 == 0x34 && t.pc == 0x202) = true := by decide
/-- V-M24. -/
theorem test_step_ldVxMem_wraps :
    gives (step (((at200 0xF165).writeByte 0xFFF 0x5A).writeByte 0x000 0xA5 |>.setI 0xFFF))
      (fun t => t.getV 0 == 0x5A && t.getV 1 == 0xA5 && t.getV 2 == 0) = true := by decide
/-- V-M25. -/
theorem test_step_ldVxMem_font :
    gives (step ((at200 0xF465).setI 0x050)) (fun t => t.v.toList.take 6 == [0xF0, 0x90, 0x90, 0x90, 0xF0, 0]) = true := by
  decide
/-- V-D3: cells 320 to 326 and 383 are bits 0 to 6 and 63 of row 5. -/
theorem test_step_drw_wrapsInItsRow :
    gives (step ((((at200 0xD121).writeByte 0x300 0xFF).setI 0x300).setV 1 0x7F |>.setV 2 5))
      (fun t => t.video == blankVideo.set 5 0x800000000000007F && t.getV 15 == 0) = true := by decide
/-- V-D7. -/
theorem test_step_drw_collision :
    gives (step ((((at200 0xD121).writeByte 0x300 0xC0).setI 0x300).setVideo (blankVideo.set 0 0x2)))
      (fun t => t.video == blankVideo.set 0 0x1 && t.getV 15 == 1) = true := by decide
/-- V-K4. -/
theorem test_step_skp_value :
    gives (step (((at200 0xE79E).setV 7 2).setKeys (pressing [7]))) (fun t => t.pc == 0x202) = true := by decide
/-- V-K5. -/
theorem test_step_skp_highest :
    gives (step (((at200 0xE29E).setV 2 0x0F).setKeys (pressing [15]))) (fun t => t.pc == 0x204) = true := by decide
/-- V-K8. -/
theorem test_step_sknp : gives (step ((at200 0xE2A1).setV 2 7)) (fun t => t.pc == 0x204) = true := by decide
/-- V-K9. -/
theorem test_step_sknp_outOfRange :
    faultsWith (step ((at200 0xE2A1).setV 2 0xFF)) (.keypadIndexOutOfRange 0xE2A1 0x200 0xFF) = true := by decide
/-- V-K10. -/
theorem test_step_ldVxDt :
    gives (step ((at200 0xF307).setDt 0x3C)) (fun t => t.getV 3 == 0x3C && t.dt == 0x3C) = true := by decide
/-- V-K16. -/
theorem test_cycle_ldVxK_held :
    (cycle ((atPc 0x210 0xF50A).setV 5 0x99)).2 = .held ∧
    (cycle ((atPc 0x210 0xF50A).setV 5 0x99)).1 = ((atPc 0x210 0xF50A).setV 5 0x99).setOpcode 0xF50A := by decide
/-- V-K19. -/
theorem test_step_ldVxK_key :
    gives (step (((at200 0xFF0A).setV 15 0x99).setKeys (pressing [15])))
      (fun t => t.getV 15 == 0x0F && t.pc == 0x202) = true := by decide
/-- V-K12. -/
theorem test_step_ldDtVx : gives (step ((at200 0xF315).setV 3 0x3C)) (fun t => t.dt == 0x3C) = true := by decide
/-- V-K15. -/
theorem test_step_ldStVx :
    gives (step (((at200 0xF418).setV 4 0xFF).setDt 3)) (fun t => t.st == 0xFF && t.dt == 3) = true := by decide

/-- V-T3. -/
theorem test_tick : tick ((State.reset.setDt 0xFF).setSt 1) = State.reset.setDt 0xFE := by decide
/-- V-F2. -/
theorem test_fetch_below : faultsWith (step (atPc 0x1FE 0x0000)) (.fetchOutOfRange 0x1FE) = true := by decide
/-- V-F4. -/
theorem test_fetch_top : faultsWith (step (State.reset.setPc 0xFFF)) (.fetchOutOfRange 0xFFF) = true := by decide
/-- V-L4, first part: bytes go to `0x200` upward. -/
theorem test_load : (load [0xAA, 0xBB] State.reset).toOption.map (·.mem) = some [(0x200, 0xAA), (0x201, 0xBB)] := by
  decide

/-! ### Inputs that meet the hypotheses of the obligations, each clause at its boundary -/

theorem test_witness_ResetLeavesTheStatedValues :
    (0x04F#12).toNat < 0x050 ∧ 0x0A0 ≤ (0x0A0#12).toNat ∧ 0x0A0 ≤ (0xFFF#12).toNat := by decide

theorem test_witness_ZeroMemory_low :
    let s := State.reset
    0x200 ≤ s.pc.toNat ∧ s.pc.toNat ≤ 0xFFE ∧ s.readByte (s.pc.setWidth 12) = 0 ∧
      s.readByte ((s.pc + 1).setWidth 12) = 0 := by decide
theorem test_witness_ZeroMemory_high :
    let s := State.reset.setPc 0xFFE
    0x200 ≤ s.pc.toNat ∧ s.pc.toNat ≤ 0xFFE ∧ s.readByte (s.pc.setWidth 12) = 0 ∧
      s.readByte ((s.pc + 1).setWidth 12) = 0 := by decide

/-- A well-formed state that calls from `0xFFE`, the highest return address. -/
theorem test_witness_EveryStepKeepsInvariant :
    let s := { atPc 0xFFE 0x2ABC with sp := 1, stack := State.reset.stack.set 0 0x202 }
    WfState s ∧ gives (step s) (fun t => decide (WfState t)) = true := by decide
theorem test_witness_EveryHostOperationKeepsInvariant : WfState Session.fresh.machine := by decide

/-- Two orders of the same writes. -/
theorem test_witness_CanonicalMemories :
    let m := memWrite (memWrite [] 0x300 1) 0x000 2
    let n := memWrite (memWrite [] 0x000 2) 0x300 1
    memWf m = true ∧ memWf n = true ∧ (∀ a : Nat, a < 4096 → memRead m a = memRead n a) :=
  ⟨by decide, by decide, fun _ _ => congrArg (fun k => memRead k _) (by decide :
    memWrite (memWrite [] 0x300 1) 0x000 2 = memWrite (memWrite [] 0x000 2) 0x300 1)⟩

theorem test_witness_StepRuns_low :
    let s := at200 0xA300
    0x200 ≤ s.pc.toNat ∧ s.pc.toNat ≤ 0xFFE ∧
      decodeWord (s.readByte (s.pc.setWidth 12) ++ s.readByte ((s.pc + 1).setWidth 12)) = some (.ldI 0x300) := by decide
theorem test_witness_StepRuns_high :
    let s := atPc 0xFFE 0x6000
    0x200 ≤ s.pc.toNat ∧ s.pc.toNat ≤ 0xFFE ∧
      decodeWord (s.readByte (s.pc.setWidth 12) ++ s.readByte ((s.pc + 1).setWidth 12)) = some (.ldImm 0 0) := by decide

theorem test_witness_FetchOutOfRangeFaults :
    (State.reset.setPc 0x1FF).pc.toNat < 0x200 ∧ 0xFFE < (State.reset.setPc 0xFFF).pc.toNat := by decide

theorem test_witness_UnknownWordFaults :
    let s := atPc 0xFFE 0x5AB1
    0x200 ≤ s.pc.toNat ∧ s.pc.toNat ≤ 0xFFE ∧
      s.readByte (s.pc.setWidth 12) ++ s.readByte ((s.pc + 1).setWidth 12) = (0x5AB1 : Word) ∧ wellFormedWord 0x5AB1 = false := by
  decide

theorem test_witness_FaultCause_fetch : faultsWith (step (State.reset.setPc 0x1FF)) (.fetchOutOfRange 0x1FF) = true := by
  decide
theorem test_witness_FaultCause_unknown :
    faultsWith (step (at200 0x5AB1)) (.unknownInstruction 0x5AB1 0x200) = true := by decide
theorem test_witness_FaultCause_underflow :
    faultsWith (step (at200 0x00EE)) (.stackUnderflow 0x00EE 0x200) = true := by decide
theorem test_witness_FaultCause_overflow :
    faultsWith (step { at200 0x2ABC with sp := 16 }) (.stackOverflow 0x2ABC 0x200) = true := by decide
/-- V-K6, the lowest value that faults. -/
theorem test_witness_FaultCause_keypad :
    faultsWith (step ((at200 0xE29E).setV 2 0x10)) (.keypadIndexOutOfRange 0xE29E 0x200 0x10) = true := by decide

theorem test_witness_FaultLeavesOnlyTheFetch :
    (cycle (State.reset.setPc 0x1FF)).2 = .fault (.fetchOutOfRange 0x1FF) ∧
    (cycle (at200 0x00EE)).2 = .fault (.stackUnderflow 0x00EE 0x200) ∧
    ∀ p, Fault.stackUnderflow 0x00EE 0x200 ≠ .fetchOutOfRange p :=
  ⟨by decide, by decide, fun _ h => Fault.noConfusion h⟩

theorem test_witness_StepLatchesOpcode :
    gives (step (at200 0xF307)) (fun t => t.opcode == 0xF307) = true ∧
    ∀ x, decodeWord (at200 0xF307).wordAtPc ≠ some (.ldDtVx x) := by decide

theorem test_witness_EncodeOfDecode : decodeWord 0xFF65 = some (.ldVxMem 15) := by decide
theorem test_witness_WordsDecodeByExactlyOneRow :
    decodeWord 0x800E = some (.shl 0 0) ∧ (Instr.shl 0 0).row ∈ opcodeTable ∧ (Instr.shl 0 0).row.selects 0x800E = true := by
  decide

theorem test_witness_SingleInstructionFamilies :
    nib3 0x1FFF = 0x1 ∧ nib3 0x2000 = 0x2 ∧ nib3 0x3FFF = 0x3 ∧ nib3 0x4000 = 0x4 ∧ nib3 0x6FFF = 0x6 ∧
    nib3 0x7000 = 0x7 ∧ nib3 0xAFFF = 0xA ∧ nib3 0xB000 = 0xB ∧ nib3 0xCFFF = 0xC ∧ nib3 0xD000 = 0xD := by decide

theorem test_witness_ReturnPops_next :
    ({ State.reset with sp := 1 } : State).sp.val = (0 : Fin 16).val + 1 ∧
    ({ State.reset with sp := 16 } : State).sp.val = (15 : Fin 16).val + 1 := by decide
theorem test_witness_ReturnPops_fault :
    (at200 0x00EE).sp.val = 0 ∧ (at200 0x00EE).canFetch = true ∧ (at200 0x00EE).wordAtPc = 0x00EE := by decide

theorem test_witness_CallPushes_next :
    State.reset.sp.val = (0 : Fin 16).val ∧ ({ State.reset with sp := 15 } : State).sp.val = (15 : Fin 16).val := by decide
theorem test_witness_CallPushes_fault :
    let s := { atPc 0xFFE 0x2FFF with sp := 16 }
    s.sp.val = 16 ∧ s.canFetch = true ∧ s.wordAtPc = formA 0x2 0xFFF := by decide

/-- The state a CALL left is itself one a RET can find. -/
theorem test_witness_ReturnAfterCall :
    ({ State.reset with sp := 15 } : State).sp.val < 16 ∧
    gives (exec (.call 0xABC) { State.reset with sp := 15 }) (fun t => gives (exec .ret t) (fun w => w.sp == 15)) = true := by
  decide

theorem test_witness_JumpSetsPc_self :
    (at200 0x1200).canFetch = true ∧ (at200 0x1200).wordAtPc = formA 0x1 ((at200 0x1200).pc.setWidth 12) ∧
    (atPc 0xFFE 0x1FFE).canFetch = true ∧ (atPc 0xFFE 0x1FFE).wordAtPc = formA 0x1 ((atPc 0xFFE 0x1FFE).pc.setWidth 12) := by
  decide

/-- Both values of the flag, and both kinds of destination. -/
theorem test_witness_SubtractFlags :
    let s := (State.reset.setV 0 1).setV 15 2
    (1 : Byte) = (if (s.getV 0).toNat < (s.getV vf).toNat then 1 else 0) ∧
    (0 : Byte) = (if (s.getV vf).toNat < (s.getV 0).toNat then 1 else 0) ∧ (0 : Reg) ≠ vf ∧ (14 : Reg) ≠ vf := by decide

theorem test_witness_RandomMask : (0x7F#8).getLsbD 7 = false ∧ (0xFE#8).getLsbD 0 = false := by decide

theorem test_witness_FlagRegister_alu :
    gives (exec (.addReg 14 vf) State.reset) (fun t => t.getV vf == 0) = true ∧ (14 : Reg) ≠ vf := by decide
/-- A draw that turns a cell off, and one that turns none off. -/
theorem test_witness_FlagRegister_drw :
    let s := (State.reset.setI 0x050).setVideo (blankVideo.set 0 0x1)
    s.pixel 0 = true ∧ gives (exec (.drw 0 0 1) s) (fun t => !t.pixel 0) = true ∧
    gives (exec (.drw vf vf 0) s) (fun t => t.video == s.video) = true := by decide
theorem test_witness_FlagRegister_other : gives (exec .cls State.reset) (fun _ => true) = true := by decide

/-- A state whose stores wrap past `0xFFF`. -/
theorem test_witness_Stores : memWf ((State.reset.writeByte 0xFFF 9).setI 0xFFE).mem = true := by decide
theorem test_witness_StoredRegistersLoadBack :
    memWf State.reset.mem = true ∧
    gives (exec (.ldMemVx 15) State.reset) (fun t => gives (exec (.ldVxMem 15) t) (fun _ => true)) = true := by decide

theorem test_witness_NextFetchSeesTheStore_first :
    let s := State.reset.setI 0x200
    memWf s.mem = true ∧ s.canFetch = true ∧ (1 : Reg).val = (0 : Reg).val + 1 ∧ (1 : Reg).val ≤ (1 : Reg).val ∧
      ea s.i (0 : Reg).val = s.pc.setWidth 12 := by decide
theorem test_witness_NextFetchSeesTheStore_last :
    let s := (State.reset.setPc 0xFFE).setI 0xFF0
    memWf s.mem = true ∧ s.canFetch = true ∧ (15 : Reg).val = (14 : Reg).val + 1 ∧ (15 : Reg).val ≤ (15 : Reg).val ∧
      ea s.i (14 : Reg).val = s.pc.setWidth 12 := by decide

theorem test_witness_OnlyTwoInstructionsWriteMemory :
    gives (exec (.ldVxMem 15) State.reset) (fun t => t.mem == State.reset.mem) = true ∧
    ∀ x, Instr.ldVxMem 15 ≠ .ldB x ∧ Instr.ldVxMem 15 ≠ .ldMemVx x := by decide

/-- The top row of the glyph of 0, `F0`, covers cells 0 to 3 from the corner: cell 0 is on before, cell 3 is not. -/
theorem test_witness_Draw_covered :
    let s := (State.reset.setI 0x050).setVideo (blankVideo.set 0 0x1)
    Covered s 0 0 1 0 ∧ s.pixel 0 = true ∧ Covered s 0 0 1 3 ∧ s.pixel 3 = false :=
  ⟨⟨0, 0, by unfold SpriteBit; decide, by decide⟩, by decide, ⟨0, 3, by unfold SpriteBit; decide, by decide⟩, by decide⟩
theorem test_witness_Draw_uncovered (c : VideoCell) : ¬ Covered State.reset 0 0 0 c :=
  fun ⟨_, _, h, _⟩ => absurd h.1 (Nat.not_lt_zero _)
theorem test_witness_SecondDraw :
    gives (exec (.drw 0 1 1) (State.reset.setI 0x050))
      (fun t => t.getV 0 == State.reset.getV 0 && t.getV 1 == State.reset.getV 1) = true := by decide

theorem test_witness_KeySkips :
    ((State.reset.setV 0 15).getV 0).toNat = (15 : Key).val ∧ 15 < ((State.reset.setV 0 16).getV 0).toNat := by decide

theorem test_witness_KeyWait_held :
    (∀ k : Key, (at200 0xFF0A).keys[k.val] = false) ∧ (at200 0xFF0A).canFetch = true ∧
    decodeWord (at200 0xFF0A).wordAtPc = some (.ldVxK 15) := by decide
theorem test_witness_KeyWait_one :
    (pressing [15])[(15 : Key).val] = true ∧ ∀ j : Key, (pressing [15])[j.val] = true → j = 15 := by decide

theorem test_witness_SoundTimer : (∀ x, Instr.cls ≠ .ldStVx x) ∧ ∀ x, Instr.ldVxDt 0 ≠ .ldStVx x := by decide
theorem test_witness_CallStack : Instr.cls ≠ .ret ∧ ∀ nnn, Instr.cls ≠ .call nnn :=
  ⟨by decide, fun _ h => Instr.noConfusion h⟩
theorem test_witness_Video : Instr.ret ≠ .cls ∧ ∀ x y n, Instr.ret ≠ .drw x y n :=
  ⟨by decide, fun _ _ _ h => Instr.noConfusion h⟩

theorem test_witness_Load :
    memWf State.reset.mem = true ∧ (List.replicate 3584 (0xFF : Byte)).length ≤ 3584 ∧
    3584 < (List.replicate 3585 (0xFF : Byte)).length := by
  simp only [List.length_replicate]; decide

theorem test_witness_FaultEndsTheRun :
    faultsWith (step State.reset) (.unknownInstruction 0 0x200) = true ∧
    (perform .cycle Session.fresh).1.ended ≠ none ∧ HostOp.reset ∉ [HostOp.cycle, HostOp.tick] := by decide

/-- R24: the random source is outside the machine, so a reset, after a fault too, does not take it back. -/
theorem test_reset_keepsTheSource :
    (perform .reset ⟨{ at200 0x00E0 with draws := 3 }, none⟩).1.machine = { State.reset with draws := 3 } ∧
    (perform .reset ⟨{ at200 0x00E0 with draws := 3 }, some (.fetchOutOfRange 0)⟩).1.machine.draws = 3 := by decide

theorem test_witness_RandomDrawIndex_first :
    gives (exec (.rnd 15 0xFF) State.reset) (fun t => t.draws == 1) = true ∧
    gives (exec .cls State.reset) (fun t => t.draws == 0) = true ∧ ∀ x kk, Instr.cls ≠ .rnd x kk :=
  ⟨by decide, by decide, fun _ _ h => Instr.noConfusion h⟩
theorem test_witness_RandomDrawIndex_cycle :
    (atPc 0xFFE 0xCFFF).canFetch = true ∧ decodeWord (atPc 0xFFE 0xCFFF).wordAtPc = some (.rnd 15 0xFF) := by decide

theorem test_witness_FinishedProgram :
    Finished (at200 0x1200) ∧ Finished (atPc 0xFFE 0x1FFE) ∧
    ∀ op ∈ [HostOp.cycle, HostOp.tick, HostOp.writeKeypad (Vector.replicate 16 1)],
      op = .cycle ∨ op = .tick ∨ ∃ flags, op = .writeKeypad flags :=
  ⟨by unfold Finished; decide, by unfold Finished; decide, by simp⟩

end Sys2Proof.Tests
end

section
/-! SUPPORT. The operand fields against the masks and shifts of spec/00_scope.md R6. -/

namespace Sys2Proof

/-- Masking with `k` ones at place `lo` and shifting right by `lo` (R6) is a quotient and a remainder. -/
theorem toNat_and_ushiftRight {w m : Word} (lo k : Nat) (hm : m.toNat >>> lo = 2 ^ k - 1) :
    ((w &&& m) >>> lo).toNat = w.toNat / 2 ^ lo % 2 ^ k := by
  rw [BitVec.toNat_ushiftRight, BitVec.toNat_and, Nat.shiftRight_and_distrib, hm,
    Nat.and_two_pow_sub_one_eq_mod, Nat.shiftRight_eq_div_pow]

/-- Masking with the lowest `k` ones (R6) is a remainder. -/
theorem toNat_and_lowMask {w m : Word} (k : Nat) (hm : m.toNat = 2 ^ k - 1) :
    (w &&& m).toNat = w.toNat % 2 ^ k := by
  rw [BitVec.toNat_and, hm, Nat.and_two_pow_sub_one_eq_mod]

/-- The byte `kk` is the nibbles `y` and `n` side by side (R6). -/
theorem toNat_fieldKK_eq_nibbles (w : Word) : (fieldKK w).toNat = 16 * (fieldY w).val + (fieldN w).val := by
  rw [toNat_fieldKK, val_fieldY, val_fieldN]
  omega

/-- The address `nnn` is the nibbles `x`, `y` and `n` side by side (R6). -/
theorem toNat_fieldNNN_eq_nibbles (w : Word) :
    (fieldNNN w).toNat = 256 * (fieldX w).val + 16 * (fieldY w).val + (fieldN w).val := by
  rw [toNat_fieldNNN, val_fieldX, val_fieldY, val_fieldN]
  omega

/-- Settles O20: each masked and shifted word has the quotient and remainder that the field has. -/
theorem operandFieldsAreTheMaskedBits : Obligations.OperandFieldsAreTheMaskedBits := by
  intro w
  refine ⟨?x, ?y, ?kk, ?nnn, ?n, toNat_fieldKK_eq_nibbles w, toNat_fieldNNN_eq_nibbles w⟩
  case x => exact (val_fieldX w).trans (toNat_and_ushiftRight 8 4 rfl).symm
  case y => exact (val_fieldY w).trans (toNat_and_ushiftRight 4 4 rfl).symm
  case kk => exact (toNat_fieldKK w).trans (toNat_and_lowMask 8 rfl).symm
  case nnn => exact (toNat_fieldNNN w).trans (toNat_and_lowMask 12 rfl).symm
  case n => exact (val_fieldN w).trans (toNat_and_lowMask 4 rfl).symm

end Sys2Proof
end

section
/-! SUPPORT. Noninterference in `ST` (spec/10_state.md R19, spec/44_keypad_timers.md R135): a write of `ST` commutes
with each operation that branches or loops, and so with every instruction but `Fx18`. -/

namespace Sys2Proof.Machine

variable (s : State) (b : Byte)

/-! ### Operations -/

theorem State.skipIf_setSt (c : Bool) : (s.setSt b).skipIf c = (s.skipIf c).setSt b := by
  cases c <;> rfl

theorem drawCell_setSt (c : VideoCell) : drawCell (s.setSt b) c = (drawCell s c).setSt b := by
  cases h : s.pixel c <;> simp only [drawCell, State.pixel_setSt, h] <;> rfl

theorem foldl_drawCell_setSt (cs : List VideoCell) :
    cs.foldl drawCell (s.setSt b) = (cs.foldl drawCell s).setSt b :=
  List.foldl_hom (State.setSt · b) fun t c => drawCell_setSt t b c

theorem foldl_storeReg_setSt (rs : List Reg) :
    rs.foldl storeReg (s.setSt b) = (rs.foldl storeReg s).setSt b :=
  List.foldl_hom (State.setSt · b) fun _ _ => rfl

theorem foldl_loadReg_setSt (rs : List Reg) :
    rs.foldl loadReg (s.setSt b) = (rs.foldl loadReg s).setSt b :=
  List.foldl_hom (State.setSt · b) fun _ _ => rfl

/-! ### Instructions that branch or loop -/

theorem execRet_setSt : execRet (s.setSt b) = mapNext (·.setSt b) (execRet s) := by
  by_cases h : s.sp.val = 0
  · rw [execRet_of_empty h, execRet_of_empty (s := s.setSt b) h]
    rfl
  · rw [execRet_of_pos h, execRet_of_pos (s := s.setSt b) h]
    rfl

theorem execCall_setSt (nnn : Address) :
    execCall nnn (s.setSt b) = mapNext (·.setSt b) (execCall nnn s) := by
  by_cases h : s.sp.val < 16
  · rw [execCall_of_lt nnn h, execCall_of_lt (s := s.setSt b) nnn h]
    rfl
  · have hfull : s.sp.val = 16 := by omega
    rw [execCall_of_full nnn hfull, execCall_of_full (s := s.setSt b) nnn hfull]
    rfl

theorem skipOnKey_setSt (want : Bool) (x : Reg) :
    skipOnKey want x (s.setSt b) = mapNext (·.setSt b) (skipOnKey want x s) := by
  by_cases h : (s.getV x).toNat < 16
  · rw [skipOnKey_of_lt want x h, skipOnKey_of_lt (s := s.setSt b) want x h, State.skipIf_setSt]
    rfl
  · have hge : 16 ≤ (s.getV x).toNat := by omega
    rw [skipOnKey_of_ge want x hge, skipOnKey_of_ge (s := s.setSt b) want x hge]
    rfl

theorem execLdVxK_setSt (x : Reg) :
    execLdVxK x (s.setSt b) = mapNext (·.setSt b) (execLdVxK x s) := by
  cases h : selectKey s.keys with
  | none =>
    rw [execLdVxK_of_none x h, execLdVxK_of_none (s := s.setSt b) x h]
    rfl
  | some k =>
    rw [execLdVxK_of_some x h, execLdVxK_of_some (s := s.setSt b) x h]
    rfl

theorem execDrw_setSt (x y : Reg) (n : RowCount) :
    execDrw x y n (s.setSt b) = mapNext (·.setSt b) (execDrw x y n s) := by
  rw [execDrw_eq, execDrw_eq]
  exact congrArg Host.Outcome.next (foldl_drawCell_setSt (s.setFlag 0) b _)

/-- `ST` is neither read nor written by an instruction other than `Fx18` (R19, R135). -/
theorem exec_setSt (i : Instr) (hi : ∀ x, i ≠ .ldStVx x) :
    exec i (s.setSt b) = mapNext (·.setSt b) (exec i s) := by
  cases i with
  | ldStVx x => exact absurd rfl (hi x)
  | ret => exact execRet_setSt s b
  | call nnn => exact execCall_setSt s b nnn
  | skp x => exact skipOnKey_setSt s b true x
  | sknp x => exact skipOnKey_setSt s b false x
  | ldVxK x => exact execLdVxK_setSt s b x
  | drw x y n => exact execDrw_setSt s b x y n
  | ldMemVx x => exact congrArg Host.Outcome.next (foldl_storeReg_setSt s b (regsUpTo x))
  | ldVxMem x => exact congrArg Host.Outcome.next (foldl_loadReg_setSt s b (regsUpTo x))
  | seImm x kk => exact congrArg Host.Outcome.next (s.skipIf_setSt b (s.getV x == kk))
  | sneImm x kk => exact congrArg Host.Outcome.next (s.skipIf_setSt b (s.getV x != kk))
  | seReg x y => exact congrArg Host.Outcome.next (s.skipIf_setSt b (s.getV x == s.getV y))
  | sneReg x y => exact congrArg Host.Outcome.next (s.skipIf_setSt b (s.getV x != s.getV y))
  | cls | jp _ | jpV0 _ | ldI _ | addI _ | ldF _ | ldB _ | ldImm _ _ | addImm _ _ | rnd _ _ => rfl
  | ldReg _ _ | orReg _ _ | andReg _ _ | xorReg _ _ | addReg _ _ | sub _ _ | shr _ _ | subn _ _ | shl _ _ => rfl
  | ldVxDt _ | ldDtVx _ => rfl

/-! ### `Fx18` and the timers -/

theorem exec_ldStVx (x : Reg) : exec (.ldStVx x) s = .next (s.setSt (s.getV x)) := rfl

/-- A timer written changes that timer alone (R135). -/
theorem changesOnly_setSt : ChangesOnly { st := true } s (s.setSt b) := by
  simp [ChangesOnly]

/-- A tick takes one off a timer, floored at 0 (R152). -/
theorem toNat_tickDown : (tickDown b).toNat = b.toNat - 1 := by
  unfold tickDown
  split
  next h => rw [h]; rfl
  next h => bv_omega

/-- The host's tone is on exactly when `ST` is not 0 (R19, R154). -/
theorem soundOn_iff : soundOn s = true ↔ s.st ≠ 0 := bne_iff_ne

end Sys2Proof.Machine

namespace Sys2Proof

open Sys2Proof.Machine

/-- Settles O54: a write of `ST` commutes with every instruction but `Fx18`, which overwrites it. -/
theorem soundTimerIsNeverRead : Obligations.SoundTimerIsNeverRead := by
  refine ⟨?unread, ?written, ?host, rfl⟩
  case unread => exact fun i s b hi => exec_setSt s b i hi
  case written => exact fun x s b => ⟨rfl, s.setSt (s.getV x), exec_ldStVx s x, rfl, changesOnly_setSt s (s.getV x)⟩
  case host => exact fun s => ⟨toNat_tickDown s.st, soundOn_iff s⟩

end Sys2Proof
end

section
/-! SUPPORT. The families that hold one instruction each (spec/30_encoding.md R53). -/

namespace Sys2Proof

/-- Settles O19: in each of the ten families, `N3` alone selects the branch of `decodeWord`, and the branch tests
nothing more of the word. -/
theorem singleInstructionFamilies : Obligations.SingleInstructionFamilies := by
  intro w
  refine ⟨?jp, ?call, ?seImm, ?sneImm, ?ldImm, ?addImm, ?ldI, ?jpV0, ?rnd, ?drw⟩
  all_goals
    intro hfamily
    rw [decodeWord, hfamily]
    rfl

end Sys2Proof
end

section
/-! SUPPORT. Control transfer (spec/40_control_flow.md R70 to R74): what a cycle that fetches a given instruction does,
what each transfer leaves unchanged (R8), and the decoding of `1nnn`, `2nnn`, `3xkk` and `4xkk`. -/

namespace Sys2Proof.Machine

variable {s : State} {i : Instr} {f : Fault}

/-! ### The cycle of a known instruction -/

/-- A step whose fetched word decodes is `exec` in the state fetch left (R51, R55). -/
theorem step_of_decode (hpc : s.canFetch = true) (hi : decodeWord s.wordAtPc = some i) :
    step s = exec i s.fetched := by
  rw [step, if_pos hpc, runFetched, State.fetched_opcode, hi]

/-- An instruction that faults ends the cycle in the state fetch left (R148). -/
theorem cycle_of_exec_fault (hpc : s.canFetch = true) (hi : decodeWord s.wordAtPc = some i)
    (hf : exec i s.fetched = .fault f) : cycle s = (s.fetched, .fault f) := by
  rw [cycle, step_of_decode hpc hi, hf, State.stateAtReport, if_pos hpc]

/-- The address a fault of execute reports is the one the cycle began at (R140). -/
theorem State.fetched_pc_sub_two (s : State) : s.fetched.pc - 2 = s.pc := BitVec.add_sub_cancel s.pc 2

/-- An address where a fetch may start is a 12-bit jump target that names itself (R13). -/
theorem State.setWidth_pc_of_canFetch (hpc : s.canFetch = true) : (s.pc.setWidth 12).setWidth 16 = s.pc := by
  obtain ⟨-, hle⟩ := State.canFetch_iff.1 hpc
  bv_omega

/-! ### Frames -/

theorem changesOnly_setPc (s : State) (w : Word) : ChangesOnly { pc := true } s (s.setPc w) := by
  simp [ChangesOnly]

theorem changesOnly_skipIf (s : State) (c : Bool) : ChangesOnly { pc := true } s (s.skipIf c) :=
  s.skipIf_eq c ▸ changesOnly_setPc s _

/-- A pop keeps the popped slot (R16, R70). -/
theorem changesOnly_dropTop_setPc (s : State) (w : Word) :
    ChangesOnly { pc := true, sp := true } s (s.dropTop.setPc w) := by
  simp [ChangesOnly]

theorem changesOnly_push_setPc (s : State) (v w : Word) (h : s.sp.val < 16) :
    ChangesOnly { pc := true, stack := true, sp := true } s ((s.push v h).setPc w) := by
  simp [ChangesOnly]

/-! ### Values -/

/-- The word a pop returns is in the slot `sp` then names (R17). -/
theorem State.topOfStack_eq {k : Fin 16} (h : s.sp.val = k.val + 1) : s.topOfStack = s.stack[k.val] := by
  simp [State.topOfStack, h]

theorem toNat_setWidth_address (a : Address) : (a.setWidth 16 : Word).toNat = a.toNat :=
  BitVec.toNat_setWidth_of_le (by decide)

theorem State.skipIf_pc (s : State) (c : Bool) : (s.skipIf c).pc = if c then s.pc + 2 else s.pc := by
  rw [State.skipIf_eq, State.setPc_pc]

end Sys2Proof.Machine

namespace Sys2Proof

/-! ### Decoding -/

theorem decodeWord_jp (nnn : Address) : decodeWord (formA 0x1 nnn) = some (.jp nnn) := by
  obtain ⟨hjp, -⟩ := singleInstructionFamilies (formA 0x1 nnn)
  simpa using hjp

theorem decodeWord_call (nnn : Address) : decodeWord (formA 0x2 nnn) = some (.call nnn) := by
  obtain ⟨-, hcall, -⟩ := singleInstructionFamilies (formA 0x2 nnn)
  simpa using hcall

theorem decodeWord_seImm (x : Reg) (kk : Byte) : decodeWord (formXK 0x3 x kk) = some (.seImm x kk) := by
  obtain ⟨-, -, hse, -⟩ := singleInstructionFamilies (formXK 0x3 x kk)
  simpa using hse

theorem decodeWord_sneImm (x : Reg) (kk : Byte) : decodeWord (formXK 0x4 x kk) = some (.sneImm x kk) := by
  obtain ⟨-, -, -, hsne, -⟩ := singleInstructionFamilies (formXK 0x4 x kk)
  simpa using hsne

theorem decodeWord_ret : decodeWord 0x00EE = some .ret := by decide

open Sys2Proof.Machine

/-! ### RET -/

/-- A RET that finds no return address ends the cycle in the state fetch left (R70, R143). -/
theorem cycle_ret_of_empty {s : State} (hpc : s.canFetch = true) (hw : s.wordAtPc = 0x00EE) (h : s.sp.val = 0) :
    cycle s = (s.fetched, .fault (.stackUnderflow 0x00EE s.pc)) := by
  have hf : exec .ret s.fetched = .fault (.stackUnderflow s.fetched.opcode (s.fetched.pc - 2)) :=
    execRet_of_empty h
  rw [State.fetched_opcode, hw, State.fetched_pc_sub_two] at hf
  exact cycle_of_exec_fault hpc (hw ▸ decodeWord_ret) hf

/-- Settles O22: with a return address held RET pops it; with none it faults, and the cycle leaves what fetch left. -/
theorem returnPopsTheStack : Obligations.ReturnPopsTheStack := by
  refine ⟨decodeWord_ret, ?pop, fun s h => execRet_of_empty h, ?fault⟩
  case pop =>
    intro s k h
    have hrun : exec .ret s = .next (s.dropTop.setPc s.topOfStack) := execRet_of_pos (by omega)
    exact ⟨_, hrun, by simp [h], State.topOfStack_eq h, changesOnly_dropTop_setPc s _⟩
  case fault =>
    intro s hpc hw h
    rw [cycle_ret_of_empty hpc hw h, State.fetched, hw]
    rfl

/-! ### CALL -/

/-- A CALL that finds the stack full ends the cycle in the state fetch left (R72, R142). -/
theorem cycle_call_of_full {s : State} {nnn : Address} (hpc : s.canFetch = true) (hw : s.wordAtPc = formA 0x2 nnn)
    (h : s.sp.val = 16) : cycle s = (s.fetched, .fault (.stackOverflow (formA 0x2 nnn) s.pc)) := by
  have hf : exec (.call nnn) s.fetched = .fault (.stackOverflow s.fetched.opcode (s.fetched.pc - 2)) :=
    execCall_of_full nnn h
  rw [State.fetched_opcode, hw, State.fetched_pc_sub_two] at hf
  exact cycle_of_exec_fault hpc (hw ▸ decodeWord_call nnn) hf

/-- Settles O23: below 16 held addresses CALL pushes `pc` into the slot at `sp` alone and jumps; at 16 it faults, and
the cycle leaves what fetch left. -/
theorem callPushesTheReturnAddress : Obligations.CallPushesTheReturnAddress := by
  refine ⟨decodeWord_call, ?push, fun s nnn h => execCall_of_full nnn h, ?fault⟩
  case push =>
    intro s nnn k h
    have hlt : s.sp.val < 16 := h ▸ k.isLt
    have hslot (j : Fin 16) : ((s.push s.pc hlt).setPc (nnn.setWidth 16)).stack[j.val] =
        if j = k then s.pc else s.stack[j.val] := by
      simp only [State.setPc_stack, State.getElem_stack_push, h, Fin.ext_iff]
    refine ⟨_, execCall_of_lt nnn hlt, ?_, ?_, ?_, toNat_setWidth_address nnn, changesOnly_push_setPc s _ _ hlt⟩
    · rw [hslot, if_pos rfl]
    · intro j hj
      rw [hslot, if_neg hj]
    · simp [h]
  case fault =>
    intro s nnn hpc hw h
    rw [cycle_call_of_full hpc hw h, State.fetched, hw]
    rfl

/-! ### JP -/

theorem exec_jp (nnn : Address) (s : State) : exec (.jp nnn) s = .next (s.setPc (nnn.setWidth 16)) := rfl

/-- Settles O25: JP writes `pc` alone, and from a state that can fetch the self-jump writes back the `pc` it started
from. -/
theorem jumpSetsPc : Obligations.JumpSetsPc := by
  refine ⟨decodeWord_jp, ?jump, ?self⟩
  case jump =>
    exact fun s nnn => ⟨_, exec_jp nnn s, toNat_setWidth_address nnn, changesOnly_setPc s _⟩
  case self =>
    intro s hpc hw
    rw [step_of_decode hpc (hw ▸ decodeWord_jp _), exec_jp, State.setWidth_pc_of_canFetch hpc]
    rfl

/-! ### Skips on an immediate -/

theorem exec_seImm (x : Reg) (kk : Byte) (s : State) :
    exec (.seImm x kk) s = .next (s.skipIf (s.getV x == kk)) := rfl

theorem exec_sneImm (x : Reg) (kk : Byte) (s : State) :
    exec (.sneImm x kk) s = .next (s.skipIf (s.getV x != kk)) := rfl

/-- Settles O27: both are a skip, on `V[x] = kk` and on its negation. -/
theorem skipsOnImmediate : Obligations.SkipsOnImmediate := by
  refine ⟨fun x kk => ⟨decodeWord_seImm x kk, decodeWord_sneImm x kk⟩, fun s x kk => ⟨?se, ?sne⟩⟩
  case se =>
    refine ⟨_, exec_seImm x kk s, ?_, changesOnly_skipIf s _⟩
    simp only [State.skipIf_pc, beq_iff_eq]
  case sne =>
    refine ⟨_, exec_sneImm x kk s, ?_, changesOnly_skipIf s _⟩
    simp only [State.skipIf_pc, bne_iff_ne, ne_eq, ite_not]

end Sys2Proof
end

section
/-! SUPPORT. Loads, immediate add and bitwise logic (spec/41_load_alu.md R90 to R95): each instruction is one write of
`V[x]`, and such a write leaves all else unchanged (R8). -/

namespace Sys2Proof.Machine

/-! ### A register write -/

theorem State.getV_setV_self (s : State) (x : Reg) (b : Byte) : (s.setV x b).getV x = b := by
  rw [State.getV_setV, if_pos rfl]

/-- `VF` is no exception (R11): it changes only as the register written. -/
theorem changesOnly_setV (s : State) (x : Reg) (b : Byte) : ChangesOnly { regs := [x] } s (s.setV x b) := by
  simp +contextual [ChangesOnly]

/-! ### The instructions -/

variable (x y : Reg) (kk : Byte) (s : State)

theorem exec_ldImm : exec (.ldImm x kk) s = .next (s.setV x kk) := rfl

theorem exec_addImm : exec (.addImm x kk) s = .next (s.setV x (s.getV x + kk)) := rfl

theorem exec_ldReg : exec (.ldReg x y) s = .next (s.setV x (s.getV y)) := rfl

theorem exec_orReg : exec (.orReg x y) s = .next (s.setV x (s.getV x ||| s.getV y)) := rfl

theorem exec_andReg : exec (.andReg x y) s = .next (s.setV x (s.getV x &&& s.getV y)) := rfl

theorem exec_xorReg : exec (.xorReg x y) s = .next (s.setV x (s.getV x ^^^ s.getV y)) := rfl

end Sys2Proof.Machine

namespace Sys2Proof

/-! ### Decoding -/

theorem decodeWord_ldImm (x : Reg) (kk : Byte) : decodeWord (formXK 0x6 x kk) = some (.ldImm x kk) := by
  obtain ⟨-, -, -, -, hld, -⟩ := singleInstructionFamilies (formXK 0x6 x kk)
  simpa using hld

theorem decodeWord_addImm (x : Reg) (kk : Byte) : decodeWord (formXK 0x7 x kk) = some (.addImm x kk) := by
  obtain ⟨-, -, -, -, -, hadd, -⟩ := singleInstructionFamilies (formXK 0x7 x kk)
  simpa using hadd

/-- Family 0x8 is decoded by its lowest nibble (R54). -/
theorem decodeWord_family8 (x y : Reg) (low : BitVec 4) :
    decodeWord (formXYN 0x8 x y low) = decodeFamily8 (formXYN 0x8 x y low) := by
  rw [decodeWord, nib3_formXYN]
  rfl

theorem decodeWord_ldReg (x y : Reg) : decodeWord (formXYN 0x8 x y 0x0) = some (.ldReg x y) := by
  rw [decodeWord_family8, decodeFamily8, nib0_formXYN, fieldX_formXYN, fieldY_formXYN]
  rfl

theorem decodeWord_orReg (x y : Reg) : decodeWord (formXYN 0x8 x y 0x1) = some (.orReg x y) := by
  rw [decodeWord_family8, decodeFamily8, nib0_formXYN, fieldX_formXYN, fieldY_formXYN]
  rfl

theorem decodeWord_andReg (x y : Reg) : decodeWord (formXYN 0x8 x y 0x2) = some (.andReg x y) := by
  rw [decodeWord_family8, decodeFamily8, nib0_formXYN, fieldX_formXYN, fieldY_formXYN]
  rfl

theorem decodeWord_xorReg (x y : Reg) : decodeWord (formXYN 0x8 x y 0x3) = some (.xorReg x y) := by
  rw [decodeWord_family8, decodeFamily8, nib0_formXYN, fieldX_formXYN, fieldY_formXYN]
  rfl

open Sys2Proof.Machine

/-! ### Loads -/

/-- Settles O29: both loads are one write of `V[x]`, of `kk` and of the old `V[y]`. -/
theorem loadsCopyIntoTheRegister : Obligations.LoadsCopyIntoTheRegister := by
  refine ⟨fun x y kk => ⟨decodeWord_ldImm x kk, decodeWord_ldReg x y⟩, fun s x y kk => ⟨?imm, ?reg⟩⟩
  case imm => exact ⟨_, exec_ldImm x kk s, s.getV_setV_self x _, changesOnly_setV s x _⟩
  case reg => exact ⟨_, exec_ldReg x y s, s.getV_setV_self x _, changesOnly_setV s x _⟩

/-! ### Immediate add -/

/-- Settles O30: the sum of two bytes as a byte is the sum modulo 256, written to `V[x]` alone. -/
theorem addImmediateWrapsWithoutFlag : Obligations.AddImmediateWrapsWithoutFlag := by
  refine ⟨decodeWord_addImm, fun s x kk => ⟨_, exec_addImm x kk s, ?wraps, changesOnly_setV s x _⟩⟩
  case wraps => rw [State.getV_setV_self, BitVec.toNat_add]

/-! ### Logic -/

/-- Settles O31: each instruction writes `V[x]` alone, with the word operation that acts on each bit by itself. -/
theorem logicIsBitwiseWithoutFlag : Obligations.LogicIsBitwiseWithoutFlag := by
  refine ⟨fun x y => ⟨decodeWord_orReg x y, decodeWord_andReg x y, decodeWord_xorReg x y⟩,
    fun s x y => ⟨?or, ?and, ?xor⟩⟩
  case or =>
    refine ⟨_, exec_orReg x y s, changesOnly_setV s x _, fun j _ => ?_⟩
    rw [State.getV_setV_self, BitVec.getLsbD_or]
  case and =>
    refine ⟨_, exec_andReg x y s, changesOnly_setV s x _, fun j _ => ?_⟩
    rw [State.getV_setV_self, BitVec.getLsbD_and]
  case xor =>
    refine ⟨_, exec_xorReg x y s, changesOnly_setV s x _, fun j _ => ?_⟩
    rw [State.getV_setV_self, BitVec.getLsbD_xor]

end Sys2Proof
end

section
/-! SUPPORT. The index register and memory (spec/42_index_memory.md R110, R111, R113 to R115): `Annn` and `Fx1E` are one
write of `I`; `Fx33` is three byte writes; `Fx55` and `Fx65` are the loops of Laws/Loops.lean. -/

namespace Sys2Proof.Machine

/-! ### Frames -/

theorem changesOnly_setI (s : State) (a : Address) : ChangesOnly { index := true } s (s.setI a) := by
  simp [ChangesOnly]

/-- A new main memory that differs at the named cells alone touches only those (R8). -/
theorem changesOnly_with_mem {s : State} {m : Memory} {cells : List Address}
    (h : ∀ a : Address, a ∉ cells → memRead m a.toNat = s.readByte a) :
    ChangesOnly { cells := cells } s { s with mem := m } :=
  ⟨fun _ _ => rfl, h, by simp⟩

/-- New register contents that differ at the named registers alone touch only those (R8). -/
theorem changesOnly_with_v {s : State} {v : Vector Byte 16} {regs : List Reg}
    (h : ∀ r : Reg, r ∉ regs → v[r.val] = s.getV r) : ChangesOnly { regs := regs } s { s with v := v } :=
  ⟨h, fun _ _ => rfl, by simp⟩

/-- Storing registers touches the cells stored to and nothing else (R114). -/
theorem changesOnly_foldl_storeReg (rs : List Reg) {s : State} (hm : memWf s.mem = true) :
    ChangesOnly { cells := rs.map fun r => ea s.i r.val } s (rs.foldl storeReg s) := by
  rw [foldl_storeReg_eq]
  exact changesOnly_with_mem fun a ha =>
    foldl_storeReg_frame rs hm fun r hr e => ha (List.mem_map.2 ⟨r, hr, e.symm⟩)

/-- Loading registers touches the registers loaded and nothing else (R115). -/
theorem changesOnly_foldl_loadReg {rs regs : List Reg} (s : State) (hsub : rs ⊆ regs) :
    ChangesOnly { regs := regs } s (rs.foldl loadReg s) := by
  rw [foldl_loadReg_eq]
  exact changesOnly_with_v fun r hr =>
    (foldl_loadReg_getV rs s r).trans (if_neg fun h => hr (hsub h))

/-! ### Decimal digits -/

theorem toNat_hundreds (b : Byte) : (hundreds b).toNat = b.toNat / 100 := by
  rw [hundreds, BitVec.toNat_ofNat]
  omega

theorem toNat_tens (b : Byte) : (tens b).toNat = b.toNat / 10 % 10 := by
  rw [tens, BitVec.toNat_ofNat]
  omega

theorem toNat_ones (b : Byte) : (ones b).toNat = b.toNat % 10 := by
  rw [ones, BitVec.toNat_ofNat]
  omega

/-- A byte read after three byte writes is that of the last write to its address (R31). -/
theorem State.readByte_writeByte_three {s : State} (hm : memWf s.mem = true) (a b c d : Address) (u v w : Byte) :
    (((s.writeByte a u).writeByte b v).writeByte c w).readByte d =
      if d = c then w else if d = b then v else if d = a then u else s.readByte d := by
  have ha := State.memWf_writeByte hm a u
  have hb := State.memWf_writeByte ha b v
  rw [State.readByte_writeByte hb, State.readByte_writeByte ha, State.readByte_writeByte hm]

/-- The state `Fx33` leaves, byte by byte: the three digits, and every other byte as it was (R113). -/
theorem exec_ldB_eq_with_mem {s : State} (x : Reg) (hm : memWf s.mem = true) :
    ∃ m, exec (.ldB x) s = .next { s with mem := m } ∧ ∀ a : Address, memRead m a.toNat =
      if a = ea s.i 2 then ones (s.getV x) else if a = ea s.i 1 then tens (s.getV x)
      else if a = ea s.i 0 then hundreds (s.getV x) else s.readByte a :=
  ⟨_, rfl, fun a => State.readByte_writeByte_three hm _ _ _ a _ _ _⟩

/-! ### The other instructions -/

variable (x : Reg) (s : State)

theorem exec_ldI (nnn : Address) : exec (.ldI nnn) s = .next (s.setI nnn) := rfl

theorem exec_addI : exec (.addI x) s = .next (s.setI (ea s.i (s.getV x).toNat)) := rfl

theorem exec_ldMemVx : exec (.ldMemVx x) s = .next ((regsUpTo x).foldl storeReg s) := rfl

theorem exec_ldVxMem : exec (.ldVxMem x) s = .next ((regsUpTo x).foldl loadReg s) := rfl

end Sys2Proof.Machine

namespace Sys2Proof

/-! ### Decoding -/

theorem decodeWord_ldI (nnn : Address) : decodeWord (formA 0xA nnn) = some (.ldI nnn) := by
  obtain ⟨-, -, -, -, -, -, hld, -⟩ := singleInstructionFamilies (formA 0xA nnn)
  simpa using hld

/-- Family 0xF is decoded by its low byte (R54). -/
theorem decodeWord_familyF (x : Reg) (low : Byte) :
    decodeWord (formXK 0xF x low) = decodeFamilyF (formXK 0xF x low) := by
  rw [decodeWord, nib3_formXK]
  rfl

theorem decodeWord_addI (x : Reg) : decodeWord (formXK 0xF x 0x1E) = some (.addI x) := by
  rw [decodeWord_familyF, decodeFamilyF, fieldKK_formXK, fieldX_formXK]
  rfl

theorem decodeWord_ldB (x : Reg) : decodeWord (formXK 0xF x 0x33) = some (.ldB x) := by
  rw [decodeWord_familyF, decodeFamilyF, fieldKK_formXK, fieldX_formXK]
  rfl

theorem decodeWord_ldMemVx (x : Reg) : decodeWord (formXK 0xF x 0x55) = some (.ldMemVx x) := by
  rw [decodeWord_familyF, decodeFamilyF, fieldKK_formXK, fieldX_formXK]
  rfl

theorem decodeWord_ldVxMem (x : Reg) : decodeWord (formXK 0xF x 0x65) = some (.ldVxMem x) := by
  rw [decodeWord_familyF, decodeFamilyF, fieldKK_formXK, fieldX_formXK]
  rfl

open Sys2Proof.Machine

/-! ### LD B -/

/-- Settles O41: the three addresses differ, so each keeps its own digit, and the frame is the read of any other
address. -/
theorem decimalDigitsAreStored : Obligations.DecimalDigitsAreStored := by
  refine ⟨decodeWord_ldB, fun s x hm => ?_⟩
  obtain ⟨m, hrun, hread⟩ := exec_ldB_eq_with_mem x hm
  have h01 : ea s.i 0 ≠ ea s.i 1 := mt (ea_inj (by decide) (by decide)).1 (by decide)
  have h02 : ea s.i 0 ≠ ea s.i 2 := mt (ea_inj (by decide) (by decide)).1 (by decide)
  have h12 : ea s.i 1 ≠ ea s.i 2 := mt (ea_inj (by decide) (by decide)).1 (by decide)
  refine ⟨_, hrun, toNat_ea s.i, ?hundreds, ?tens, ?ones, changesOnly_with_mem ?frame⟩
  case hundreds => rw [State.readByte, hread, if_neg h02, if_neg h01, if_pos rfl, toNat_hundreds]
  case tens => rw [State.readByte, hread, if_neg h12, if_pos rfl, toNat_tens]
  case ones => rw [State.readByte, hread, if_pos rfl, toNat_ones]
  case frame =>
    intro a ha
    simp only [List.mem_cons, List.not_mem_nil, or_false, not_or] at ha
    obtain ⟨h0, h1, h2⟩ := ha
    rw [hread, if_neg h2, if_neg h1, if_neg h0]

/-! ### LD [I], Vx -/

/-- Settles O42: the loop stores each register of `V0..Vx` once, each to a cell of its own. -/
theorem registersAreStored : Obligations.RegistersAreStored := by
  refine ⟨decodeWord_ldMemVx, fun s x hm => ⟨_, exec_ldMemVx x s, toNat_ea s.i, ?stored, ?frame⟩⟩
  case stored => exact fun r hr => foldl_storeReg_read _ (nodup_regsUpTo x) hm (mem_regsUpTo.2 hr)
  case frame => exact changesOnly_foldl_storeReg (regsUpTo x) hm

/-! ### LD Vx, [I] -/

/-- Settles O43: the loop loads the registers of `V0..Vx` and no other, from a memory and an index it leaves alone. -/
theorem registersAreLoaded : Obligations.RegistersAreLoaded := by
  refine ⟨decodeWord_ldVxMem, fun s x => ⟨_, exec_ldVxMem x s, toNat_ea s.i, ?loaded, ?frame⟩⟩
  case loaded =>
    intro r hr
    rw [foldl_loadReg_getV, if_pos (mem_regsUpTo.2 hr)]
  case frame =>
    refine changesOnly_foldl_loadReg s fun r hr => ?_
    simpa using mem_regsUpTo.1 hr

/-! ### LD I and ADD I -/

/-- Settles O39: both are one write of `I`, of `nnn` and of the effective address `ea(I + V[x])`. -/
theorem indexLoadAndAdd : Obligations.IndexLoadAndAdd := by
  refine ⟨fun nnn x => ⟨decodeWord_ldI nnn, decodeWord_addI x⟩, fun s nnn x => ⟨?load, ?add⟩⟩
  case load => exact ⟨_, exec_ldI s nnn, toNat_setWidth_address nnn, changesOnly_setI s nnn⟩
  case add =>
    refine ⟨_, exec_addI x s, ?_, changesOnly_setI s _⟩
    rw [State.setI_i, toNat_setWidth_address, toNat_ea]

end Sys2Proof
end

section
/-! SUPPORT. The display (spec/43_display.md R120): clearing the screen is one write of the video, and such a write leaves
all else unchanged (R8). -/

namespace Sys2Proof.Machine

/-- `VF` is no exception (R120): a write of the video alone sets no flag. -/
theorem changesOnly_setVideo (s : State) (p : Vector (BitVec 64) 32) :
    ChangesOnly { video := true } s (s.setVideo p) := by
  simp [ChangesOnly]

@[simp] theorem State.pixel_setVideo (s : State) (p : Vector (BitVec 64) 32) (c : VideoCell) :
    (s.setVideo p).pixel c = cellOn p c := rfl

theorem exec_cls (s : State) : exec .cls s = .next (s.setVideo blankVideo) := rfl

end Sys2Proof.Machine

namespace Sys2Proof

theorem decodeWord_cls : decodeWord 0x00E0 = some .cls := by decide

open Sys2Proof.Machine

/-! ### CLS -/

/-- Settles O47: CLS writes the blank video, in which every cell is off, and nothing more. -/
theorem clearTurnsEveryCellOff : Obligations.ClearTurnsEveryCellOff := by
  refine ⟨decodeWord_cls, fun s => ⟨_, exec_cls s, ?off, changesOnly_setVideo s blankVideo⟩⟩
  case off =>
    intro c
    rw [State.pixel_setVideo, cellOn_blankVideo]

end Sys2Proof
end

section
/-! SUPPORT. The delay timer and the timer moves (spec/44_keypad_timers.md R132, R134): each instruction is one write of
a register or of a timer, and a tick takes one off what `Fx15` wrote. -/

namespace Sys2Proof.Machine

variable (x : Reg) (s : State) (b : Byte)

/-- A write of `DT` changes that timer alone (R134). -/
theorem changesOnly_setDt : ChangesOnly { dt := true } s (s.setDt b) := by
  simp [ChangesOnly]

/-- A tick takes one off `DT`, floored at 0, whatever `ST` is (R152). -/
theorem toNat_tick_dt : (tick s).dt.toNat = s.dt.toNat - 1 := toNat_tickDown s.dt

theorem exec_ldVxDt : exec (.ldVxDt x) s = .next (s.setV x s.dt) := rfl

theorem exec_ldDtVx : exec (.ldDtVx x) s = .next (s.setDt (s.getV x)) := rfl

end Sys2Proof.Machine

namespace Sys2Proof

/-! ### Decoding -/

theorem decodeWord_ldVxDt (x : Reg) : decodeWord (formXK 0xF x 0x07) = some (.ldVxDt x) := by
  rw [decodeWord_familyF, decodeFamilyF, fieldKK_formXK, fieldX_formXK]
  rfl

theorem decodeWord_ldDtVx (x : Reg) : decodeWord (formXK 0xF x 0x15) = some (.ldDtVx x) := by
  rw [decodeWord_familyF, decodeFamilyF, fieldKK_formXK, fieldX_formXK]
  rfl

theorem decodeWord_ldStVx (x : Reg) : decodeWord (formXK 0xF x 0x18) = some (.ldStVx x) := by
  rw [decodeWord_familyF, decodeFamilyF, fieldKK_formXK, fieldX_formXK]
  rfl

open Sys2Proof.Machine

/-! ### Fx07, Fx15 and Fx18 -/

/-- Settles O51: the three are one write each, of `V[x]`, of `DT` and of `ST`, and the tick finds `V[x]` in `DT`. -/
theorem timerMoves : Obligations.TimerMoves := by
  refine ⟨fun x => ⟨decodeWord_ldVxDt x, decodeWord_ldDtVx x, decodeWord_ldStVx x⟩,
    fun s x => ⟨?readDt, ?setDt, ?setSt⟩⟩
  case readDt => exact ⟨_, exec_ldVxDt x s, s.getV_setV_self x s.dt, changesOnly_setV s x s.dt⟩
  case setDt =>
    refine ⟨_, exec_ldDtVx x s, s.setDt_dt _, ?tick, changesOnly_setDt s _⟩
    case tick => rw [toNat_tick_dt, State.setDt_dt]
  case setSt => exact ⟨_, exec_ldStVx s x, s.setSt_st _, changesOnly_setSt s _⟩

end Sys2Proof
end

section
/-! SUPPORT. The host's timer tick (spec/60_exceptions.md R152): one write of `DT`, then one of `ST`. -/

namespace Sys2Proof.Machine

variable (s : State)

/-- A tick takes one off `ST`, floored at 0, whatever `DT` is (R152). -/
theorem toNat_tick_st : (tick s).st.toNat = s.st.toNat - 1 := toNat_tickDown s.st

/-- Neither of the tick's two writes reaches beyond its own timer, so what each leaves alone both leave alone (R152). -/
theorem changesOnly_tick : ChangesOnly { dt := true, st := true } s (tick s) := by
  simp [ChangesOnly, tick]

end Sys2Proof.Machine

namespace Sys2Proof

open Sys2Proof.Machine

/-- Settles O53: each timer is written once, with one less than it held or 0, and the tick writes nothing more. -/
theorem tickDecrementsBothTimers : Obligations.TickDecrementsBothTimers :=
  fun s => ⟨toNat_tick_dt s, toNat_tick_st s, changesOnly_tick s⟩

end Sys2Proof
end

section
/-! SUPPORT. What an instruction may touch (spec/00_scope.md R8), one row per instruction, and that it touches no more:
the frame every invariant and every "only these instructions write it" below is read off from. -/

namespace Sys2Proof

open Sys2Proof.Machine

/-! ### The parts a frame leaves alone, by name -/

section
variable {w : Touched} {s t : State} (h : ChangesOnly w s t)
include h

theorem ChangesOnly.getV_eq {r : Reg} (hr : r ∉ w.regs) : t.getV r = s.getV r := by
  obtain ⟨hv, -⟩ := h
  exact hv r hr

theorem ChangesOnly.readByte_eq {a : Address} (ha : a ∉ w.cells) : t.readByte a = s.readByte a := by
  obtain ⟨-, hmem, -⟩ := h
  exact hmem a ha

theorem ChangesOnly.i_eq (hw : w.index = false) : t.i = s.i := by
  obtain ⟨-, -, hi, -⟩ := h
  exact hi hw

theorem ChangesOnly.pc_eq (hw : w.pc = false) : t.pc = s.pc := by
  obtain ⟨-, -, -, hpc, -⟩ := h
  exact hpc hw

theorem ChangesOnly.stack_eq (hw : w.stack = false) : t.stack = s.stack := by
  obtain ⟨-, -, -, -, hstack, -⟩ := h
  exact hstack hw

theorem ChangesOnly.sp_eq (hw : w.sp = false) : t.sp = s.sp := by
  obtain ⟨-, -, -, -, -, hsp, -⟩ := h
  exact hsp hw

theorem ChangesOnly.dt_eq (hw : w.dt = false) : t.dt = s.dt := by
  obtain ⟨-, -, -, -, -, -, hdt, -⟩ := h
  exact hdt hw

theorem ChangesOnly.video_eq (hw : w.video = false) : t.video = s.video := by
  obtain ⟨-, -, -, -, -, -, -, -, hvideo, -⟩ := h
  exact hvideo hw

theorem ChangesOnly.draws_eq (hw : w.draws = false) : t.draws = s.draws := by
  obtain ⟨-, -, -, -, -, -, -, -, -, hdraws, -⟩ := h
  exact hdraws hw

theorem ChangesOnly.keys_eq : t.keys = s.keys := by
  obtain ⟨-, -, -, -, -, -, -, -, -, -, hkeys, -⟩ := h
  exact hkeys

theorem ChangesOnly.opcode_eq : t.opcode = s.opcode := by
  obtain ⟨-, -, -, -, -, -, -, -, -, -, -, hopcode⟩ := h
  exact hopcode

end

end Sys2Proof

namespace Sys2Proof.Machine

/-! ### The frames of the updates not framed above -/

/-- A flag write and then a write of `V[x]`, the shape of every flag-setting ALU instruction (R102). -/
theorem changesOnly_setFlag_setV (s : State) (f : Byte) (x : Reg) (b : Byte) :
    ChangesOnly { regs := [x, vf] } s ((s.setFlag f).setV x b) := by
  simp +contextual [ChangesOnly]

theorem changesOnly_setV_countDraw (s : State) (x : Reg) (b : Byte) :
    ChangesOnly { regs := [x], draws := true } s (s.setV x b).countDraw := by
  simp +contextual [ChangesOnly]

/-- Drawing cells touches `VF` and the video alone (R121). -/
theorem changesOnly_foldl_drawCell {cs : List VideoCell} (hcs : cs.Nodup) (s : State) (f : Byte) :
    ChangesOnly { regs := [vf], video := true } s (cs.foldl drawCell (s.setFlag f)) := by
  refine ⟨fun r hr => ?_, ?_⟩
  · have hne : r ≠ vf := by simpa using hr
    rw [foldl_drawCell_getV cs hcs, if_neg fun h => hne h.1, State.getV_setFlag, if_neg hne]
  · rw [foldl_drawCell_eq]
    simp [State.readByte]

/-- The 4096 cells of main memory (R31). -/
def allCells : List Address := (List.finRange 4096).map BitVec.ofFin

theorem mem_allCells (a : Address) : a ∈ allCells :=
  List.mem_map.2 ⟨a.toFin, List.mem_finRange _, rfl⟩

/-- Any new main memory is a change of main memory alone. -/
theorem changesOnly_with_any_mem (s : State) (m : Memory) : ChangesOnly { cells := allCells } s { s with mem := m } :=
  changesOnly_with_mem fun a ha => absurd (mem_allCells a) ha

variable {s t : State}

/-! ### What the instructions that branch can answer as a next state -/

theorem execRet_next (h : execRet s = .next t) : s.sp.val ≠ 0 ∧ t = s.dropTop.setPc s.topOfStack := by
  by_cases hsp : s.sp.val = 0
  · rw [execRet_of_empty hsp] at h
    cases h
  · rw [execRet_of_pos hsp] at h
    cases h
    exact ⟨hsp, rfl⟩

theorem execCall_next {nnn : Address} (h : execCall nnn s = .next t) :
    ∃ hsp : s.sp.val < 16, t = (s.push s.pc hsp).setPc (nnn.setWidth 16) := by
  by_cases hsp : s.sp.val < 16
  · rw [execCall_of_lt nnn hsp] at h
    cases h
    exact ⟨hsp, rfl⟩
  · rw [execCall_of_full nnn (by omega)] at h
    cases h

theorem skipOnKey_next {want : Bool} {x : Reg} (h : skipOnKey want x s = .next t) : ∃ c, t = s.skipIf c := by
  by_cases hk : (s.getV x).toNat < 16
  · rw [skipOnKey_of_lt want x hk] at h
    cases h
    exact ⟨_, rfl⟩
  · rw [skipOnKey_of_ge want x (by omega)] at h
    cases h

theorem execLdVxK_next {x : Reg} (h : execLdVxK x s = .next t) :
    t = s.setPc (s.pc - 2) ∨ ∃ b, t = s.setV x b := by
  cases hk : selectKey s.keys with
  | none =>
    rw [execLdVxK_of_none x hk] at h
    cases h
    exact .inl rfl
  | some k =>
    rw [execLdVxK_of_some x hk] at h
    cases h
    exact .inr ⟨_, rfl⟩

/-- Either way `Fx0A` touches no more than `V[x]` and `pc` (R133). -/
theorem changesOnly_execLdVxK {x : Reg} (h : execLdVxK x s = .next t) :
    ChangesOnly { regs := [x], pc := true } s t := by
  obtain rfl | ⟨b, rfl⟩ := execLdVxK_next h
  · simp [ChangesOnly]
  · simp +contextual [ChangesOnly]

/-! ### The frame of every instruction -/

/-- What each instruction may touch. The two stores are given all of main memory, as their cells depend on `I`. -/
def touched : Instr → Touched
  | .cls => { video := true }
  | .ret => { pc := true, sp := true }
  | .call _ => { pc := true, stack := true, sp := true }
  | .jp _ | .jpV0 _ | .seImm _ _ | .sneImm _ _ | .seReg _ _ | .sneReg _ _ | .skp _ | .sknp _ => { pc := true }
  | .ldImm x _ | .addImm x _ | .ldReg x _ | .orReg x _ | .andReg x _ | .xorReg x _ | .ldVxDt x => { regs := [x] }
  | .addReg x _ | .sub x _ | .shr x _ | .subn x _ | .shl x _ => { regs := [x, vf] }
  | .rnd x _ => { regs := [x], draws := true }
  | .drw _ _ _ => { regs := [vf], video := true }
  | .ldVxK x => { regs := [x], pc := true }
  | .ldDtVx _ => { dt := true }
  | .ldStVx _ => { st := true }
  | .ldI _ | .addI _ | .ldF _ => { index := true }
  | .ldB _ | .ldMemVx _ => { cells := allCells }
  | .ldVxMem x => { regs := regsUpTo x }

/-- An instruction touches nothing beyond its row of `touched` (R8). -/
theorem exec_changesOnly {i : Instr} (h : exec i s = .next t) : ChangesOnly (touched i) s t := by
  cases i with
  | cls => cases h; exact changesOnly_setVideo s _
  | ret =>
    obtain ⟨-, rfl⟩ := execRet_next h
    exact changesOnly_dropTop_setPc s _
  | call _ =>
    obtain ⟨hsp, rfl⟩ := execCall_next h
    exact changesOnly_push_setPc s _ _ hsp
  | jp _ | jpV0 _ => cases h; exact changesOnly_setPc s _
  | seImm _ _ | sneImm _ _ | seReg _ _ | sneReg _ _ => cases h; exact changesOnly_skipIf s _
  | skp _ | sknp _ =>
    obtain ⟨c, rfl⟩ := skipOnKey_next h
    exact changesOnly_skipIf s c
  | ldImm _ _ | addImm _ _ | ldReg _ _ | orReg _ _ | andReg _ _ | xorReg _ _ | ldVxDt _ =>
    cases h; exact changesOnly_setV s _ _
  | addReg _ _ | sub _ _ | shr _ _ | subn _ _ | shl _ _ => cases h; exact changesOnly_setFlag_setV s _ _ _
  | rnd _ _ => cases h; exact changesOnly_setV_countDraw s _ _
  | drw x y n =>
    rw [exec, execDrw_eq] at h
    cases h
    exact changesOnly_foldl_drawCell (nodup_spriteCells _ _ _ (by omega)) s 0
  | ldVxK _ => exact changesOnly_execLdVxK h
  | ldDtVx _ => cases h; exact changesOnly_setDt s _
  | ldStVx _ => cases h; exact changesOnly_setSt s _
  | ldI _ | addI _ | ldF _ => cases h; exact changesOnly_setI s _
  | ldB _ => cases h; exact changesOnly_with_any_mem s _
  | ldMemVx x =>
    cases h
    rw [foldl_storeReg_eq]
    exact changesOnly_with_any_mem s _
  | ldVxMem x => cases h; exact changesOnly_foldl_loadReg s (List.Subset.refl _)

end Sys2Proof.Machine
end

section
/-! SUPPORT. The well-formed states (spec/10_state.md R25): each of the four items is kept by every instruction that
meets it after fetch, so by every step and every host operation. -/

namespace Sys2Proof.Machine

variable {s t : State} {i : Instr}

/-! ### Main memory -/

theorem State.skipIf_mem (s : State) (c : Bool) : (s.skipIf c).mem = s.mem := by
  rw [State.skipIf_eq, State.setPc_mem]

/-- Only the two store instructions write main memory (spec/20_memory.md R44). -/
theorem exec_mem_eq (h : exec i s = .next t) (hi : ∀ x, i ≠ .ldB x ∧ i ≠ .ldMemVx x) : t.mem = s.mem := by
  cases i with
  | ldB x => exact absurd rfl (hi x).1
  | ldMemVx x => exact absurd rfl (hi x).2
  | ret =>
    obtain ⟨-, rfl⟩ := execRet_next h
    rfl
  | call _ =>
    obtain ⟨hsp, rfl⟩ := execCall_next h
    rfl
  | skp _ | sknp _ =>
    obtain ⟨c, rfl⟩ := skipOnKey_next h
    exact s.skipIf_mem c
  | seImm _ _ | sneImm _ _ | seReg _ _ | sneReg _ _ => cases h; exact s.skipIf_mem _
  | ldVxK _ => obtain rfl | ⟨b, rfl⟩ := execLdVxK_next h <;> rfl
  | drw _ _ _ =>
    rw [exec, execDrw_eq] at h
    cases h
    rw [foldl_drawCell_eq]
    rfl
  | ldVxMem _ =>
    cases h
    rw [foldl_loadReg_eq]
  | _ => cases h; rfl

/-- The canonical form is kept: a store writes a cell that exists. -/
theorem exec_keeps_memWf (h : exec i s = .next t) (hm : memWf s.mem = true) : memWf t.mem = true := by
  cases i with
  | ldB x =>
    cases h
    exact State.memWf_writeByte (State.memWf_writeByte (State.memWf_writeByte hm _ _) _ _) _ _
  | ldMemVx x => cases h; exact foldl_storeReg_wf _ hm
  | _ => rwa [exec_mem_eq h (by simp)]

/-! ### The index register -/

theorem State.setI_i_le (s : State) (a : Address) : (s.setI a).i.toNat ≤ 0xFFF := by
  rw [State.setI_i, toNat_setWidth_address]
  exact Nat.le_of_lt_succ a.isLt

/-- `I` stays within 12 bits: whatever writes it writes an address (R15). -/
theorem exec_keeps_i_le (h : exec i s = .next t) (hI : s.i.toNat ≤ 0xFFF) : t.i.toNat ≤ 0xFFF := by
  cases i with
  | ldI _ | addI _ | ldF _ => cases h; exact s.setI_i_le _
  | _ => rwa [(exec_changesOnly h).i_eq rfl]

/-! ### The stack -/

/-- Every held return address is one a CALL can push (R25). -/
def StackWf (s : State) : Prop :=
  ∀ j : Fin 16, j.val < s.sp.val → 0x202 ≤ s.stack[j.val].toNat ∧ s.stack[j.val].toNat ≤ 0x1000

theorem StackWf.of_eq (hs : StackWf s) (hstack : t.stack = s.stack) (hsp : t.sp = s.sp) : StackWf t := by
  unfold StackWf
  rwa [hstack, hsp]

/-- A push keeps the held addresses in range when the pushed one is. -/
theorem StackWf.push (hs : StackWf s) {w : Word} (hlo : 0x202 ≤ w.toNat) (hhi : w.toNat ≤ 0x1000) (h : s.sp.val < 16) :
    StackWf (s.push w h) := by
  intro j hj
  rw [State.getElem_stack_push]
  split
  next => exact ⟨hlo, hhi⟩
  next hne =>
    have hlt : j.val < s.sp.val + 1 := hj
    exact hs j (by omega)

/-- A pop leaves fewer addresses held. -/
theorem StackWf.dropTop (hs : StackWf s) : StackWf s.dropTop :=
  fun j hj => hs j (Nat.lt_of_lt_of_le hj (Nat.sub_le _ _))

/-- The address a RET continues at is a held one (R70). -/
theorem StackWf.topOfStack (hs : StackWf s) (h : s.sp.val ≠ 0) : s.topOfStack.toNat ≤ 0x1000 := by
  have hj : s.sp.val - 1 < 16 := by omega
  obtain ⟨-, hle⟩ := hs ⟨s.sp.val - 1, hj⟩ (by show s.sp.val - 1 < s.sp.val; omega)
  exact hle

/-- CALL pushes the address after it, which fetch left in range; RET only drops one (R25). -/
theorem exec_keeps_stackWf (h : exec i s = .next t) (hlo : 0x202 ≤ s.pc.toNat) (hhi : s.pc.toNat ≤ 0x1000)
    (hs : StackWf s) : StackWf t := by
  cases i with
  | ret =>
    obtain ⟨-, rfl⟩ := execRet_next h
    exact hs.dropTop
  | call _ =>
    obtain ⟨hsp, rfl⟩ := execCall_next h
    exact hs.push hlo hhi hsp
  | _ => exact hs.of_eq ((exec_changesOnly h).stack_eq rfl) ((exec_changesOnly h).sp_eq rfl)

/-! ### The program counter -/

theorem State.setPc_address_le (s : State) (a : Address) : (s.setPc (a.setWidth 16)).pc.toNat ≤ 0x1002 := by
  rw [State.setPc_pc, toNat_setWidth_address]
  omega

theorem State.skipIf_pc_le (s : State) (c : Bool) (hhi : s.pc.toNat ≤ 0x1000) : (s.skipIf c).pc.toNat ≤ 0x1002 := by
  rw [State.skipIf_pc]
  split <;> bv_omega

/-- Where `pc` can be after an instruction: at an address, at a held return address, or moved by at most 2 (R25). -/
theorem exec_pc_le (h : exec i s = .next t) (hlo : 0x202 ≤ s.pc.toNat) (hhi : s.pc.toNat ≤ 0x1000) (hs : StackWf s) :
    t.pc.toNat ≤ 0x1002 := by
  cases i with
  | ret =>
    obtain ⟨hsp, rfl⟩ := execRet_next h
    exact (hs.topOfStack hsp).trans (by decide)
  | call _ =>
    obtain ⟨hsp, rfl⟩ := execCall_next h
    exact State.setPc_address_le _ _
  | jp _ | jpV0 _ => cases h; exact s.setPc_address_le _
  | seImm _ _ | sneImm _ _ | seReg _ _ | sneReg _ _ => cases h; exact s.skipIf_pc_le _ hhi
  | skp _ | sknp _ =>
    obtain ⟨c, rfl⟩ := skipOnKey_next h
    exact s.skipIf_pc_le c hhi
  | ldVxK _ =>
    obtain rfl | ⟨b, rfl⟩ := execLdVxK_next h
    · rw [State.setPc_pc]
      bv_omega
    · exact hhi.trans (by decide)
  | _ =>
    rw [(exec_changesOnly h).pc_eq rfl]
    omega

/-! ### Fetch -/

/-- After a fetch in range `pc` is in the range of the return addresses (R25, R52). -/
theorem State.toNat_fetched_pc (h : s.canFetch = true) : 0x202 ≤ s.fetched.pc.toNat ∧ s.fetched.pc.toNat ≤ 0x1000 := by
  obtain ⟨hlo, hhi⟩ := State.canFetch_iff.1 h
  rw [State.fetched_pc]
  constructor <;> bv_omega

/-! ### The host -/

/-- On a run that no fault has ended an operation has its own effect (R154). -/
theorem perform_of_running {op : HostOp} {r : Session} (h : r.ended = none) :
    perform op r = performRunning op r.machine := by
  rcases r with ⟨s, _ | g⟩ <;> cases h
  rfl

end Sys2Proof.Machine

namespace Sys2Proof

open Sys2Proof.Machine

theorem wfState_iff {s : State} :
    WfState s ↔ memWf s.mem = true ∧ s.i.toNat ≤ 0xFFF ∧ s.pc.toNat ≤ 0x1002 ∧ StackWf s := Iff.rfl

/-- Settles O5: fetch leaves `pc` where a return address may be, and from there each item of R25 is kept by `exec`. -/
theorem everyStepKeepsInvariant : Obligations.EveryStepKeepsInvariant := by
  intro s t hwf h
  obtain ⟨hm, hI, -, hs⟩ := wfState_iff.1 hwf
  obtain ⟨hpc, i, -, hrun⟩ := step_next h
  obtain ⟨hlo, hhi⟩ := State.toNat_fetched_pc hpc
  exact wfState_iff.2 ⟨exec_keeps_memWf hrun hm, exec_keeps_i_le hrun hI, exec_pc_le hrun hlo hhi hs,
    exec_keeps_stackWf hrun hlo hhi hs⟩

/-- Settles O46: each of the other instructions answers a state with the memory it found, whatever else it changes. -/
theorem onlyTwoInstructionsWriteMemory : Obligations.OnlyTwoInstructionsWriteMemory :=
  fun _ _ _ h hi => exec_mem_eq h hi

/-- Settles O4: nothing is stored and no return address is held; `I` and `pc` are constants in range. -/
theorem invariantHoldsAtReset : Obligations.InvariantHoldsAtReset :=
  wfState_iff.2 ⟨memWf_reset, by decide, by decide, fun _ hj => absurd hj (Nat.not_lt_zero _)⟩

/-! ### The host's operations -/

/-- A fetch in range leaves `pc` in range and the rest of R25 as it was, so the state a fault reports is well-formed. -/
theorem wfState_stateAtReport {s : State} (hwf : WfState s) : WfState s.stateAtReport := by
  unfold State.stateAtReport
  split
  next hpc =>
    obtain ⟨hm, hI, -, hs⟩ := wfState_iff.1 hwf
    exact wfState_iff.2 ⟨hm, hI, (State.toNat_fetched_pc hpc).2.trans (by decide), hs⟩
  next => exact hwf

theorem wfState_cycle {s : State} (hwf : WfState s) : WfState (cycle s).1 := by
  unfold cycle
  split
  next t h => exact everyStepKeepsInvariant s t hwf h
  next => exact wfState_stateAtReport hwf
  next => exact wfState_stateAtReport hwf

/-- An accepted image ends below the top of memory (R163), so its copy is canonical. -/
theorem wfState_load {s t : State} {bytes : List Byte} (hwf : WfState s) (h : load bytes s = .ok t) : WfState t := by
  unfold load at h
  split at h
  next hlen =>
    cases h
    obtain ⟨hm, hrest⟩ := hwf
    refine ⟨memWf_memWriteList ?_ hm, hrest⟩
    simp only [Config.progStart, Config.progMaxBytes, Config.memSize] at hlen ⊢
    omega
  next => cases h

/-- A reset keeps only the draw count, which R25 does not speak of. -/
theorem wfState_resetFrom (s : State) : WfState (resetFrom s) := invariantHoldsAtReset

theorem wfState_performRunning {s : State} (op : HostOp) (hwf : WfState s) :
    WfState (performRunning op s).1.machine := by
  cases op with
  | reset => exact wfState_resetFrom s
  | load bytes =>
    simp only [performRunning]
    split
    next t h => exact wfState_load hwf h
    next => exact hwf
  | cycle => exact wfState_cycle hwf
  | tick | writeKeypad _ => exact hwf

/-- Settles O6: on a running machine each operation keeps R25 by itself; on an ended one only a reset does anything. -/
theorem everyHostOperationKeepsInvariant : Obligations.EveryHostOperationKeepsInvariant := by
  intro op r hwf
  by_cases hop : op = .reset
  · rw [hop, perform_reset]
    exact wfState_resetFrom r.machine
  · cases he : r.ended with
    | some f => rwa [perform_of_ended he hop]
    | none =>
      rw [perform_of_running he]
      exact wfState_performRunning op hwf

end Sys2Proof
end

section
/-! SUPPORT. Decode and encode (spec/30_encoding.md R53 to R59): every format's encoding decodes, a word is put together
again from its fields, and the words no branch of the decoder takes. -/

namespace Sys2Proof

/-! ### Decoding the remaining formats -/

theorem decodeWord_family5 (x y : Reg) (n : BitVec 4) :
    decodeWord (formXYN 0x5 x y n) = if n = 0 then some (.seReg x y) else none := by
  rw [decodeWord, nib3_formXYN, nib0_formXYN, fieldX_formXYN, fieldY_formXYN]
  rfl

theorem decodeWord_family9 (x y : Reg) (n : BitVec 4) :
    decodeWord (formXYN 0x9 x y n) = if n = 0 then some (.sneReg x y) else none := by
  rw [decodeWord, nib3_formXYN, nib0_formXYN, fieldX_formXYN, fieldY_formXYN]
  rfl

theorem decodeWord_addReg (x y : Reg) : decodeWord (formXYN 0x8 x y 0x4) = some (.addReg x y) := by
  rw [decodeWord_family8, decodeFamily8, nib0_formXYN, fieldX_formXYN, fieldY_formXYN]
  rfl

theorem decodeWord_sub (x y : Reg) : decodeWord (formXYN 0x8 x y 0x5) = some (.sub x y) := by
  rw [decodeWord_family8, decodeFamily8, nib0_formXYN, fieldX_formXYN, fieldY_formXYN]
  rfl

theorem decodeWord_shr (x y : Reg) : decodeWord (formXYN 0x8 x y 0x6) = some (.shr x y) := by
  rw [decodeWord_family8, decodeFamily8, nib0_formXYN, fieldX_formXYN, fieldY_formXYN]
  rfl

theorem decodeWord_subn (x y : Reg) : decodeWord (formXYN 0x8 x y 0x7) = some (.subn x y) := by
  rw [decodeWord_family8, decodeFamily8, nib0_formXYN, fieldX_formXYN, fieldY_formXYN]
  rfl

theorem decodeWord_shl (x y : Reg) : decodeWord (formXYN 0x8 x y 0xE) = some (.shl x y) := by
  rw [decodeWord_family8, decodeFamily8, nib0_formXYN, fieldX_formXYN, fieldY_formXYN]
  rfl

theorem decodeWord_jpV0 (nnn : Address) : decodeWord (formA 0xB nnn) = some (.jpV0 nnn) := by
  obtain ⟨-, -, -, -, -, -, -, hjp, -⟩ := singleInstructionFamilies (formA 0xB nnn)
  simpa using hjp

theorem decodeWord_rnd (x : Reg) (kk : Byte) : decodeWord (formXK 0xC x kk) = some (.rnd x kk) := by
  obtain ⟨-, -, -, -, -, -, -, -, hrnd, -⟩ := singleInstructionFamilies (formXK 0xC x kk)
  simpa using hrnd

theorem decodeWord_drw (x y : Reg) (n : RowCount) :
    decodeWord (formXYN 0xD x y (BitVec.ofFin (w := 4) n)) = some (.drw x y n) := by
  obtain ⟨-, -, -, -, -, -, -, -, -, hdrw⟩ := singleInstructionFamilies (formXYN 0xD x y (BitVec.ofFin (w := 4) n))
  simpa using hdrw

/-- Family 0xE is decoded by its low byte (R54). -/
theorem decodeWord_familyE (x : Reg) (low : Byte) :
    decodeWord (formXK 0xE x low) = decodeFamilyE (formXK 0xE x low) := by
  rw [decodeWord, nib3_formXK]
  rfl

theorem decodeWord_skp (x : Reg) : decodeWord (formXK 0xE x 0x9E) = some (.skp x) := by
  rw [decodeWord_familyE, decodeFamilyE, fieldKK_formXK, fieldX_formXK]
  rfl

theorem decodeWord_sknp (x : Reg) : decodeWord (formXK 0xE x 0xA1) = some (.sknp x) := by
  rw [decodeWord_familyE, decodeFamilyE, fieldKK_formXK, fieldX_formXK]
  rfl

theorem decodeWord_ldVxK (x : Reg) : decodeWord (formXK 0xF x 0x0A) = some (.ldVxK x) := by
  rw [decodeWord_familyF, decodeFamilyF, fieldKK_formXK, fieldX_formXK]
  rfl

theorem decodeWord_ldF (x : Reg) : decodeWord (formXK 0xF x 0x29) = some (.ldF x) := by
  rw [decodeWord_familyF, decodeFamilyF, fieldKK_formXK, fieldX_formXK]
  rfl

/-- Settles O15: the decoder's branch for each format finds in the word the operands the encoder put there. -/
theorem decodeOfEncodeIsTheInstruction : Obligations.DecodeOfEncodeIsTheInstruction := by
  intro i
  cases i with
  | cls => exact decodeWord_cls
  | ret => exact decodeWord_ret
  | jp nnn => exact decodeWord_jp nnn
  | call nnn => exact decodeWord_call nnn
  | seImm x kk => exact decodeWord_seImm x kk
  | sneImm x kk => exact decodeWord_sneImm x kk
  | seReg x y => exact decodeWord_family5 x y 0
  | ldImm x kk => exact decodeWord_ldImm x kk
  | addImm x kk => exact decodeWord_addImm x kk
  | ldReg x y => exact decodeWord_ldReg x y
  | orReg x y => exact decodeWord_orReg x y
  | andReg x y => exact decodeWord_andReg x y
  | xorReg x y => exact decodeWord_xorReg x y
  | addReg x y => exact decodeWord_addReg x y
  | sub x y => exact decodeWord_sub x y
  | shr x y => exact decodeWord_shr x y
  | subn x y => exact decodeWord_subn x y
  | shl x y => exact decodeWord_shl x y
  | sneReg x y => exact decodeWord_family9 x y 0
  | ldI nnn => exact decodeWord_ldI nnn
  | jpV0 nnn => exact decodeWord_jpV0 nnn
  | rnd x kk => exact decodeWord_rnd x kk
  | drw x y n => exact decodeWord_drw x y n
  | skp x => exact decodeWord_skp x
  | sknp x => exact decodeWord_sknp x
  | ldVxDt x => exact decodeWord_ldVxDt x
  | ldVxK x => exact decodeWord_ldVxK x
  | ldDtVx x => exact decodeWord_ldDtVx x
  | ldStVx x => exact decodeWord_ldStVx x
  | addI x => exact decodeWord_addI x
  | ldF x => exact decodeWord_ldF x
  | ldB x => exact decodeWord_ldB x
  | ldMemVx x => exact decodeWord_ldMemVx x
  | ldVxMem x => exact decodeWord_ldVxMem x

/-- Settles O21: the words are those of the formats, and the four others fail in families 0x0, 0x5, 0x8 and 0xF. -/
theorem sampleWordsDecode : Obligations.SampleWordsDecode := by
  unfold Obligations.SampleWordsDecode
  decide

/-! ### A word is put together again from its fields -/

variable {w : Word}

theorem formA_fields {f : BitVec 4} (h : nib3 w = f) : formA f (fieldNNN w) = w := by
  have hf := congrArg BitVec.toNat h
  rw [toNat_nib3] at hf
  refine BitVec.eq_of_toNat_eq ?_
  rw [toNat_formA, toNat_fieldNNN]
  omega

theorem formXK_fields {f : BitVec 4} (h : nib3 w = f) : formXK f (fieldX w) (fieldKK w) = w := by
  have hf := congrArg BitVec.toNat h
  rw [toNat_nib3] at hf
  refine BitVec.eq_of_toNat_eq ?_
  rw [toNat_formXK, val_fieldX, toNat_fieldKK]
  omega

theorem formXYN_fields {f : BitVec 4} (h : nib3 w = f) : formXYN f (fieldX w) (fieldY w) (nib0 w) = w := by
  have hf := congrArg BitVec.toNat h
  rw [toNat_nib3] at hf
  refine BitVec.eq_of_toNat_eq ?_
  rw [toNat_formXYN, val_fieldX, val_fieldY, toNat_nib0]
  omega

/-! ### The decoder, family by family -/

theorem decodeWord_of_family0 (h3 : nib3 w = 0x0) :
    decodeWord w = if w = 0x00E0 then some .cls else if w = 0x00EE then some .ret else none := by
  rw [decodeWord, h3]
  rfl

theorem decodeWord_of_family5 (h3 : nib3 w = 0x5) :
    decodeWord w = if nib0 w = 0 then some (.seReg (fieldX w) (fieldY w)) else none := by
  rw [decodeWord, h3]
  rfl

theorem decodeWord_of_family8 (h3 : nib3 w = 0x8) : decodeWord w = decodeFamily8 w := by
  rw [decodeWord, h3]
  rfl

theorem decodeWord_of_family9 (h3 : nib3 w = 0x9) :
    decodeWord w = if nib0 w = 0 then some (.sneReg (fieldX w) (fieldY w)) else none := by
  rw [decodeWord, h3]
  rfl

theorem decodeWord_of_familyE (h3 : nib3 w = 0xE) : decodeWord w = decodeFamilyE w := by
  rw [decodeWord, h3]
  rfl

theorem decodeWord_of_familyF (h3 : nib3 w = 0xF) : decodeWord w = decodeFamilyF w := by
  rw [decodeWord, h3]
  rfl

/-- The sixteen families (R53). -/
theorem nibble_cases : ∀ b : BitVec 4,
    b = 0x0 ∨ b = 0x1 ∨ b = 0x2 ∨ b = 0x3 ∨ b = 0x4 ∨ b = 0x5 ∨ b = 0x6 ∨ b = 0x7 ∨
    b = 0x8 ∨ b = 0x9 ∨ b = 0xA ∨ b = 0xB ∨ b = 0xC ∨ b = 0xD ∨ b = 0xE ∨ b = 0xF := by decide

/-! ### Encode of decode -/

variable {i : Instr}

theorem encode_of_decodeFamily8 (h3 : nib3 w = 0x8) (h : decodeFamily8 w = some i) : encode i = w := by
  have hw := formXYN_fields h3
  unfold decodeFamily8 at h
  split at h <;> cases h <;> rename_i h0 <;> rwa [h0] at hw

theorem encode_of_decodeFamilyE (h3 : nib3 w = 0xE) (h : decodeFamilyE w = some i) : encode i = w := by
  have hw := formXK_fields h3
  unfold decodeFamilyE at h
  split at h <;> cases h <;> rename_i hk <;> rwa [hk] at hw

theorem encode_of_decodeFamilyF (h3 : nib3 w = 0xF) (h : decodeFamilyF w = some i) : encode i = w := by
  have hw := formXK_fields h3
  unfold decodeFamilyF at h
  split at h <;> cases h <;> rename_i hk <;> rwa [hk] at hw

/-- Settles O16: in each family the decoder's branch takes from the word the fields that, with what it tested, make up
the word. -/
theorem encodeOfDecodeIsTheWord : Obligations.EncodeOfDecodeIsTheWord := by
  intro w i h
  have hunique {j : Instr} (hj : decodeWord w = some j) (hw : encode j = w) : encode i = w :=
    Option.some.inj (hj.symm.trans h) ▸ hw
  obtain ⟨h1, h2, h3, h4, h6, h7, hA, hB, hC, hD⟩ := singleInstructionFamilies w
  rcases nibble_cases (nib3 w) with hf | hf | hf | hf | hf | hf | hf | hf | hf | hf | hf | hf | hf | hf | hf | hf
  · rw [decodeWord_of_family0 hf] at h
    split at h
    next hw => cases h; exact hw.symm
    next =>
      split at h <;> cases h
      next hw => exact hw.symm
  · exact hunique (h1 hf) (formA_fields hf)
  · exact hunique (h2 hf) (formA_fields hf)
  · exact hunique (h3 hf) (formXK_fields hf)
  · exact hunique (h4 hf) (formXK_fields hf)
  · rw [decodeWord_of_family5 hf] at h
    split at h <;> cases h
    next h0 => exact (congrArg _ h0.symm).trans (formXYN_fields hf)
  · exact hunique (h6 hf) (formXK_fields hf)
  · exact hunique (h7 hf) (formXK_fields hf)
  · exact encode_of_decodeFamily8 hf (decodeWord_of_family8 hf ▸ h)
  · rw [decodeWord_of_family9 hf] at h
    split at h <;> cases h
    next h0 => exact (congrArg _ h0.symm).trans (formXYN_fields hf)
  · exact hunique (hA hf) (formA_fields hf)
  · exact hunique (hB hf) (formA_fields hf)
  · exact hunique (hC hf) (formXK_fields hf)
  · exact hunique (hD hf) (formXYN_fields hf)
  · exact encode_of_decodeFamilyE hf (decodeWord_of_familyE hf ▸ h)
  · exact encode_of_decodeFamilyF hf (decodeWord_of_familyF hf ▸ h)

/-! ### The words no branch takes -/

theorem decodeWord_of_family0_eq_none (hf : nib3 w = 0x0) : decodeWord w = none ↔ w ≠ 0x00E0 ∧ w ≠ 0x00EE := by
  rw [decodeWord_of_family0 hf]
  split
  next hcls => simp [hcls]
  next hcls =>
    split
    next hret => simp [hret]
    next hret => exact iff_of_true rfl ⟨hcls, hret⟩

theorem decodeFamily8_eq_none :
    decodeFamily8 w = none ↔ nib0 w ∈ [0x8#4, 0x9#4, 0xA#4, 0xB#4, 0xC#4, 0xD#4, 0xF#4] := by
  unfold decodeFamily8
  rcases nibble_cases (nib0 w) with h | h | h | h | h | h | h | h | h | h | h | h | h | h | h | h <;> simp [h]

theorem decodeFamilyE_eq_none : decodeFamilyE w = none ↔ fieldKK w ∉ [0x9E#8, 0xA1#8] := by
  unfold decodeFamilyE
  split <;> simp_all

theorem decodeFamilyF_eq_none :
    decodeFamilyF w = none ↔
      fieldKK w ∉ [0x07#8, 0x0A#8, 0x15#8, 0x18#8, 0x1E#8, 0x29#8, 0x33#8, 0x55#8, 0x65#8] := by
  unfold decodeFamilyF
  split <;> simp_all

/-- Settles O18: ten families take every word, and each of the other six has its own test. -/
theorem unknownWordsByFamily : Obligations.UnknownWordsByFamily := by
  intro w
  obtain ⟨h1, h2, h3, h4, h6, h7, hA, hB, hC, hD⟩ := singleInstructionFamilies w
  rcases nibble_cases (nib3 w) with hf | hf | hf | hf | hf | hf | hf | hf | hf | hf | hf | hf | hf | hf | hf | hf
  · simp [hf, decodeWord_of_family0_eq_none hf]
  · simp [hf, h1 hf]
  · simp [hf, h2 hf]
  · simp [hf, h3 hf]
  · simp [hf, h4 hf]
  · simp [hf, decodeWord_of_family5 hf]
  · simp [hf, h6 hf]
  · simp [hf, h7 hf]
  · simp [hf, decodeWord_of_family8 hf, decodeFamily8_eq_none]
  · simp [hf, decodeWord_of_family9 hf]
  · simp [hf, hA hf]
  · simp [hf, hB hf]
  · simp [hf, hC hf]
  · simp [hf, hD hf]
  · simp [hf, decodeWord_of_familyE hf, decodeFamilyE_eq_none]
  · simp [hf, decodeWord_of_familyF hf, decodeFamilyF_eq_none]

/-! ### The rows of the opcode map -/

theorem nib3_and (w m : Word) : nib3 (w &&& m) = nib3 w &&& nib3 m := BitVec.extractLsb'_and

theorem nib0_and (w m : Word) : nib0 (w &&& m) = nib0 w &&& nib0 m := BitVec.extractLsb'_and

theorem fieldKK_and (w m : Word) : fieldKK (w &&& m) = fieldKK w &&& fieldKK m := BitVec.extractLsb'_and

/-! The parts of a word that a row's mask covers are the row's own (R58). -/

section
variable {m p : Word} (h : w &&& m = p)
include h

theorem nib3_of_masked (hm : nib3 m = 0xF) : nib3 w = nib3 p := by
  rw [← h, nib3_and, hm]
  exact BitVec.and_allOnes.symm

theorem nib0_of_masked (hm : nib0 m = 0xF) : nib0 w = nib0 p := by
  rw [← h, nib0_and, hm]
  exact BitVec.and_allOnes.symm

theorem fieldKK_of_masked (hm : fieldKK m = 0xFF) : fieldKK w = fieldKK p := by
  rw [← h, fieldKK_and, hm]
  exact BitVec.and_allOnes.symm

end

/-- A word that an instruction's row selects decodes, to an instruction of that row. -/
theorem decodeWord_of_row_selects {i : Instr} (h : i.row.selects w = true) :
    ∃ k, decodeWord w = some k ∧ k.row = i.row := by
  have hw : w &&& i.row.mask = i.row.pat := beq_iff_eq.1 h
  cases i with
  | cls => exact ⟨.cls, (BitVec.and_allOnes.symm.trans hw) ▸ decodeWord_cls, rfl⟩
  | ret => exact ⟨.ret, (BitVec.and_allOnes.symm.trans hw) ▸ decodeWord_ret, rfl⟩
  | jp _ | call _ | seImm _ _ | sneImm _ _ | ldImm _ _ | addImm _ _ | ldI _ | jpV0 _ | rnd _ _ | drw _ _ _ =>
    dsimp only [Instr.row] at hw
    rw [decodeWord, nib3_of_masked hw rfl]
    exact ⟨_, rfl, rfl⟩
  | seReg _ _ | sneReg _ _ =>
    dsimp only [Instr.row] at hw
    have h0 : nib0 w = 0 := nib0_of_masked hw rfl
    rw [decodeWord, nib3_of_masked hw rfl]
    exact ⟨_, if_pos h0, rfl⟩
  | ldReg _ _ | orReg _ _ | andReg _ _ | xorReg _ _ | addReg _ _ | sub _ _ | shr _ _ | subn _ _ | shl _ _ =>
    dsimp only [Instr.row] at hw
    rw [decodeWord_of_family8 (nib3_of_masked hw rfl), decodeFamily8, nib0_of_masked hw rfl]
    exact ⟨_, rfl, rfl⟩
  | skp _ | sknp _ =>
    dsimp only [Instr.row] at hw
    rw [decodeWord_of_familyE (nib3_of_masked hw rfl), decodeFamilyE, fieldKK_of_masked hw rfl]
    exact ⟨_, rfl, rfl⟩
  | ldVxDt _ | ldVxK _ | ldDtVx _ | ldStVx _ | addI _ | ldF _ | ldB _ | ldMemVx _ | ldVxMem _ =>
    dsimp only [Instr.row] at hw
    rw [decodeWord_of_familyF (nib3_of_masked hw rfl), decodeFamilyF, fieldKK_of_masked hw rfl]
    exact ⟨_, rfl, rfl⟩

/-- One instruction of each row, in the order of the opcode map. -/
def oneOfEachRow : List Instr :=
  [.cls, .ret, .jp 0, .call 0, .seImm 0 0, .sneImm 0 0, .seReg 0 0, .ldImm 0 0, .addImm 0 0, .ldReg 0 0, .orReg 0 0,
    .andReg 0 0, .xorReg 0 0, .addReg 0 0, .sub 0 0, .shr 0 0, .subn 0 0, .shl 0 0, .sneReg 0 0, .ldI 0, .jpV0 0,
    .rnd 0 0, .drw 0 0 0, .skp 0, .sknp 0, .ldVxDt 0, .ldVxK 0, .ldDtVx 0, .ldStVx 0, .addI 0, .ldF 0, .ldB 0,
    .ldMemVx 0, .ldVxMem 0]

theorem exists_row_eq {r : OpcodeRow} (hr : r ∈ opcodeTable) : ∃ i : Instr, i.row = r := by
  have htable : opcodeTable = oneOfEachRow.map Instr.row := rfl
  rw [htable] at hr
  obtain ⟨i, -, hi⟩ := List.mem_map.1 hr
  exact ⟨i, hi⟩

/-- A word that a row of the map selects decodes to an instruction of that row. -/
theorem decodeWord_of_selects {r : OpcodeRow} (hr : r ∈ opcodeTable) (h : r.selects w = true) :
    ∃ k, decodeWord w = some k ∧ k.row = r := by
  obtain ⟨i, rfl⟩ := exists_row_eq hr
  exact decodeWord_of_row_selects h

open Sys2Proof.Laws in
/-- Every instruction's row stands in the map and selects its encoding. -/
theorem rowFits (i : Instr) : RowFits.Statement i := by
  cases i
  exacts [RowFits.cls, RowFits.ret, RowFits.jp _, RowFits.call _, RowFits.seImm _ _, RowFits.sneImm _ _,
    RowFits.seReg _ _, RowFits.ldImm _ _, RowFits.addImm _ _, RowFits.ldReg _ _, RowFits.orReg _ _,
    RowFits.andReg _ _, RowFits.xorReg _ _, RowFits.addReg _ _, RowFits.sub _ _, RowFits.shr _ _,
    RowFits.subn _ _, RowFits.shl _ _, RowFits.sneReg _ _, RowFits.ldI _, RowFits.jpV0 _, RowFits.rnd _ _,
    RowFits.drw _ _ _, RowFits.skp _, RowFits.sknp _, RowFits.ldVxDt _, RowFits.ldVxK _, RowFits.ldDtVx _,
    RowFits.ldStVx _, RowFits.addI _, RowFits.ldF _, RowFits.ldB _, RowFits.ldMemVx _, RowFits.ldVxMem _]

/-- A word that decodes is selected by its instruction's row. -/
theorem row_of_decodeWord {i : Instr} (h : decodeWord w = some i) : i.row ∈ opcodeTable ∧ i.row.selects w = true :=
  encodeOfDecodeIsTheWord w i h ▸ rowFits i

theorem wellFormedWord_iff : wellFormedWord w = true ↔ ∃ r ∈ opcodeTable, r.selects w = true := List.any_eq_true

/-- Settles O17: a row that selects a word is the row of what the word decodes to, so there is one at most. -/
theorem wordsDecodeByExactlyOneRow : Obligations.WordsDecodeByExactlyOneRow := by
  refine ⟨fun w => ?decodes, fun w i h => row_of_decodeWord h, fun w p q hp hq hpw hqw => ?oneRow⟩
  case decodes =>
    rw [Bool.eq_iff_iff, Option.isSome_iff_exists, wellFormedWord_iff]
    constructor
    · rintro ⟨i, h⟩
      exact ⟨i.row, row_of_decodeWord h⟩
    · rintro ⟨r, hr, h⟩
      obtain ⟨k, hk, -⟩ := decodeWord_of_selects hr h
      exact ⟨k, hk⟩
  case oneRow =>
    obtain ⟨k, hk, rfl⟩ := decodeWord_of_selects hp hpw
    obtain ⟨l, hl, rfl⟩ := decodeWord_of_selects hq hqw
    rw [Option.some.inj (hk.symm.trans hl)]

end Sys2Proof
end

section
/-! SUPPORT. Equality of canonical memories (spec/20_memory.md R31): the list is determined by what can be read. -/

namespace Sys2Proof.Machine

/-- A listed cell comes from a list that is canonical from its address on, and does not read as its reset contents. -/
theorem memWfFrom_cons {lo a : Nat} {v : Byte} {m : Memory} (h : memWfFrom lo ((a, v) :: m) = true) :
    lo ≤ a ∧ a < 4096 ∧ v ≠ resetByte a ∧ memWfFrom (a + 1) m = true := by
  simpa [memWfFrom, and_assoc] using h

/-- Seen from any address up to its first cell, a canonical list is canonical. -/
theorem memWfFrom_cons_self {lo a : Nat} {v : Byte} {m : Memory} (h : memWfFrom lo ((a, v) :: m) = true) :
    memWfFrom a ((a, v) :: m) = true := by
  obtain ⟨-, ha, hv, hm⟩ := memWfFrom_cons h
  simpa [memWfFrom, and_assoc] using ⟨ha, hv, hm⟩

theorem memRead_cons_self (a : Nat) (v : Byte) (m : Memory) : memRead ((a, v) :: m) a = v := if_pos rfl

theorem memRead_cons_of_ne {a c : Nat} (v : Byte) (m : Memory) (h : c ≠ a) : memRead ((a, v) :: m) c = memRead m c :=
  if_neg h

/-- The first cell of a canonical list is told by a read: any list that starts later reads there as reset contents. -/
theorem memRead_ne_of_first {lo a : Nat} {v : Byte} {m n : Memory} (hm : memWfFrom lo ((a, v) :: m) = true)
    (hn : memWfFrom (a + 1) n = true) : memRead ((a, v) :: m) a ≠ memRead n a := by
  obtain ⟨-, -, hv, -⟩ := memWfFrom_cons hm
  rwa [memRead_cons_self, memRead_of_lt hn (Nat.lt_succ_self a)]

/-- Canonical lists that read alike are equal, cell by cell from the front. -/
theorem eq_of_memRead_eq {lo : Nat} {m n : Memory} (hm : memWfFrom lo m = true) (hn : memWfFrom lo n = true)
    (h : ∀ a, a < 4096 → memRead m a = memRead n a) : m = n := by
  induction m generalizing lo n with
  | nil =>
    cases n with
    | nil => rfl
    | cons c n =>
      obtain ⟨-, hc, -, -⟩ := memWfFrom_cons hn
      exact absurd (h c.1 hc).symm (memRead_ne_of_first hn rfl)
  | cons b m ih =>
    obtain ⟨a, v⟩ := b
    obtain ⟨-, ha, -, hm'⟩ := memWfFrom_cons hm
    cases n with
    | nil => exact absurd (h a ha) (memRead_ne_of_first hm rfl)
    | cons c n =>
      obtain ⟨d, w⟩ := c
      obtain ⟨-, hd, -, hn'⟩ := memWfFrom_cons hn
      rcases Nat.lt_trichotomy a d with hlt | rfl | hlt
      · exact absurd (h a ha) (memRead_ne_of_first hm (memWfFrom_mono hlt (memWfFrom_cons_self hn)))
      · have hvw : v = w := by simpa only [memRead_cons_self] using h a ha
        have htail : m = n := ih hm' hn' fun c hc => by
          by_cases hca : c = a
          · rw [hca, memRead_of_lt hm' (Nat.lt_succ_self a), memRead_of_lt hn' (Nat.lt_succ_self a)]
          · simpa only [memRead_cons_of_ne _ _ hca] using h c hc
        rw [hvw, htail]
      · exact absurd (h d hd).symm (memRead_ne_of_first hn (memWfFrom_mono hlt (memWfFrom_cons_self hm)))

end Sys2Proof.Machine

namespace Sys2Proof

open Sys2Proof.Machine

/-- Settles O7: from address 0 on, the two lists are equal cell by cell. -/
theorem canonicalMemoriesThatReadAlikeAreEqual : Obligations.CanonicalMemoriesThatReadAlikeAreEqual :=
  fun _ _ hm hn h => eq_of_memRead_eq hm hn h

end Sys2Proof
end

section
/-! SUPPORT. The cycle (spec/30_encoding.md R51, R52; spec/60_exceptions.md R140 to R148): a step outcome by outcome,
and which instructions fault. -/

namespace Sys2Proof.Machine

variable {s t : State} {i : Instr} {f : Fault}

/-! ### The three outcomes of a step -/

theorem step_of_not_canFetch (hpc : s.canFetch = false) : step s = .fault (.fetchOutOfRange s.pc) := by
  rw [step, hpc]
  rfl

theorem step_of_unknown (hpc : s.canFetch = true) (hw : decodeWord s.wordAtPc = none) :
    step s = .fault (.unknownInstruction s.wordAtPc s.pc) := by
  have hrun : step s = raiseAt .unknownInstruction s.fetched := by
    rw [step, if_pos hpc, runFetched, State.fetched_opcode, hw]
  rw [hrun, raiseAt, State.fetched_opcode, State.fetched_pc_sub_two]

theorem State.canFetch_eq_false_iff : s.canFetch = false ↔ s.pc.toNat < 0x200 ∨ 0xFFE < s.pc.toNat := by
  rw [← Bool.not_eq_true, State.canFetch_iff]
  omega

/-- A cycle whose step faults ends in the state of the report (R148). -/
theorem cycle_of_step_fault (h : step s = .fault f) : cycle s = (s.stateAtReport, .fault f) := by
  rw [cycle, h]

theorem State.stateAtReport_of_canFetch (hpc : s.canFetch = true) : s.stateAtReport = s.fetched := if_pos hpc

theorem State.stateAtReport_of_not_canFetch (hpc : s.canFetch = false) : s.stateAtReport = s :=
  if_neg (by rw [hpc]; decide)

/-! ### Which instructions fault -/

theorem execRet_fault (h : execRet s = .fault f) : s.sp.val = 0 ∧ f = .stackUnderflow s.opcode (s.pc - 2) := by
  by_cases hsp : s.sp.val = 0
  · rw [execRet_of_empty hsp] at h
    cases h
    exact ⟨hsp, rfl⟩
  · rw [execRet_of_pos hsp] at h
    cases h

theorem execCall_fault {nnn : Address} (h : execCall nnn s = .fault f) :
    s.sp.val = 16 ∧ f = .stackOverflow s.opcode (s.pc - 2) := by
  by_cases hsp : s.sp.val < 16
  · rw [execCall_of_lt nnn hsp] at h
    cases h
  · have hfull : s.sp.val = 16 := by omega
    rw [execCall_of_full nnn hfull] at h
    cases h
    exact ⟨hfull, rfl⟩

theorem skipOnKey_fault {want : Bool} {x : Reg} (h : skipOnKey want x s = .fault f) :
    15 < (s.getV x).toNat ∧ f = .keypadIndexOutOfRange s.opcode (s.pc - 2) (s.getV x) := by
  by_cases hk : (s.getV x).toNat < 16
  · rw [skipOnKey_of_lt want x hk] at h
    cases h
  · have hge : 16 ≤ (s.getV x).toNat := by omega
    rw [skipOnKey_of_ge want x hge] at h
    cases h
    exact ⟨hge, rfl⟩

/-- With a key pressed or without, `Fx0A` answers a next state (R133). -/
theorem exists_execLdVxK_eq_next (x : Reg) (s : State) : ∃ t, execLdVxK x s = .next t := by
  cases hk : selectKey s.keys with
  | none => exact ⟨_, execLdVxK_of_none x hk⟩
  | some k => exact ⟨_, execLdVxK_of_some x hk⟩

/-- The faults of execute: four instructions, each with its one check (R147). -/
theorem exec_fault (h : exec i s = .fault f) :
    (i = .ret ∧ s.sp.val = 0 ∧ f = .stackUnderflow s.opcode (s.pc - 2)) ∨
    (∃ nnn, i = .call nnn ∧ s.sp.val = 16 ∧ f = .stackOverflow s.opcode (s.pc - 2)) ∨
    (∃ x, (i = .skp x ∨ i = .sknp x) ∧ 15 < (s.getV x).toNat ∧
      f = .keypadIndexOutOfRange s.opcode (s.pc - 2) (s.getV x)) := by
  cases i with
  | ret => exact .inl ⟨rfl, execRet_fault h⟩
  | call nnn => exact .inr (.inl ⟨nnn, rfl, execCall_fault h⟩)
  | skp x => exact .inr (.inr ⟨x, .inl rfl, skipOnKey_fault h⟩)
  | sknp x => exact .inr (.inr ⟨x, .inr rfl, skipOnKey_fault h⟩)
  | ldVxK x =>
    obtain ⟨t, ht⟩ := exists_execLdVxK_eq_next x s
    cases ht.symm.trans h
  | _ => cases h

/-- Every instruction has a meaning (R55). -/
theorem exec_ne_refused (i : Instr) (s : State) (r : Refusal) : exec i s ≠ .refused r := by
  intro h
  cases i with
  | ret =>
    by_cases hsp : s.sp.val = 0
    · cases (execRet_of_empty hsp).symm.trans h
    · cases (execRet_of_pos hsp).symm.trans h
  | call nnn =>
    by_cases hsp : s.sp.val < 16
    · cases (execCall_of_lt nnn hsp).symm.trans h
    · cases (execCall_of_full nnn (by omega)).symm.trans h
  | skp x | sknp x =>
    by_cases hk : (s.getV x).toNat < 16
    · cases (skipOnKey_of_lt _ x hk).symm.trans h
    · cases (skipOnKey_of_ge _ x (by omega)).symm.trans h
  | ldVxK x =>
    obtain ⟨t, ht⟩ := exists_execLdVxK_eq_next x s
    cases ht.symm.trans h
  | _ => cases h

theorem step_ne_refused (s : State) (r : Refusal) : step s ≠ .refused r := by
  intro h
  cases hpc : s.canFetch with
  | false => cases (step_of_not_canFetch hpc).symm.trans h
  | true =>
    cases hw : decodeWord s.wordAtPc with
    | none => cases (step_of_unknown hpc hw).symm.trans h
    | some i => exact exec_ne_refused i s.fetched r ((step_of_decode hpc hw).symm.trans h)

/-- The fault a cycle reports is its step's, and the state is that of the report (R148). -/
theorem cycle_fault (h : (cycle s).2 = .fault f) : step s = .fault f ∧ (cycle s).1 = s.stateAtReport := by
  cases hs : step s with
  | next t =>
    rw [cycle, hs] at h
    cases hheld : isHeld s <;> simp [hheld] at h
  | fault g =>
    rw [cycle_of_step_fault hs] at h ⊢
    cases h
    exact ⟨rfl, rfl⟩
  | refused r => exact absurd hs (step_ne_refused s r)

/-! ### The fetched word -/

/-- The fetched word is the two bytes at `pc` side by side, the high byte first (R34). -/
theorem State.wordAtPc_eq (s : State) :
    s.wordAtPc = s.readByte (s.pc.setWidth 12) ++ s.readByte ((s.pc + 1).setWidth 12) := rfl

theorem State.fetched_eq (s : State) : s.fetched = { s with opcode := s.wordAtPc, pc := s.pc + 2 } := rfl

end Sys2Proof.Machine

namespace Sys2Proof

open Sys2Proof.Machine

/-! ### Fetch and dispatch -/

/-- Settles O8: the fetched word is the two bytes at `pc`, and a word that decodes is executed in the state so left. -/
theorem stepRunsTheDecodedInstruction : Obligations.StepRunsTheDecodedInstruction := by
  intro s i hlo hhi hi
  refine ⟨step_of_decode (State.canFetch_iff.2 ⟨hlo, hhi⟩) hi, s.fetched_eq, ?bigEndian⟩
  case bigEndian =>
    rw [State.fetched_opcode, State.wordAtPc_eq]
    exact toNat_append_eq _ _

/-- Settles O9: the fetch check fails, so the step is fetch's fault and nothing was fetched. -/
theorem fetchOutOfRangeFaults : Obligations.FetchOutOfRangeFaults := by
  intro s h
  have hpc : s.canFetch = false := State.canFetch_eq_false_iff.2 h
  have hstep := step_of_not_canFetch hpc
  exact ⟨hstep, by rw [cycle_of_step_fault hstep, State.stateAtReport_of_not_canFetch hpc]⟩

/-- A word no row of the map selects does not decode (R55). -/
theorem decodeWord_eq_none_of_not_wellFormed {w : Word} (h : wellFormedWord w = false) : decodeWord w = none := by
  obtain ⟨hdec, -⟩ := wordsDecodeByExactlyOneRow
  rw [← Option.not_isSome_iff_eq_none, hdec w, h]
  decide

/-- Settles O10: the fetch is in range and the word does not decode, so dispatch faults in the state fetch left. -/
theorem unknownWordFaults : Obligations.UnknownWordFaults := by
  rintro s w hlo hhi rfl hw
  have hpc := State.canFetch_iff.2 ⟨hlo, hhi⟩
  have hstep := step_of_unknown hpc (decodeWord_eq_none_of_not_wellFormed hw)
  exact ⟨hstep, by rw [cycle_of_step_fault hstep, State.stateAtReport_of_canFetch hpc]; rfl⟩

/-- Settles O3: two zero bytes are the word 0, which is in family 0x0 and neither CLS nor RET. -/
theorem zeroMemoryIsUnknownInstruction : Obligations.ZeroMemoryIsUnknownInstruction := by
  have hzero : ∀ s : State, 0x200 ≤ s.pc.toNat → s.pc.toNat ≤ 0xFFE → s.readByte (s.pc.setWidth 12) = 0 →
      s.readByte ((s.pc + 1).setWidth 12) = 0 → step s = .fault (.unknownInstruction 0 s.pc) := by
    intro s hlo hhi h0 h1
    have hw : s.wordAtPc = 0 := by
      rw [State.wordAtPc_eq, h0, h1]
      rfl
    have hstep := step_of_unknown (State.canFetch_iff.2 ⟨hlo, hhi⟩) (hw ▸ (by decide : decodeWord 0 = none))
    rwa [hw] at hstep
  exact ⟨hzero State.reset (by decide) (by decide) (by decide) (by decide), hzero⟩

/-! ### Outcomes -/

/-- Settles O11: fetch, dispatch and execute fault one at a time, and only four instructions fault in execute. -/
theorem faultsHaveExactlyTheseCauses : Obligations.FaultsHaveExactlyTheseCauses := by
  intro s f
  constructor
  · intro h
    obtain hfetch | ⟨hpc, hw, -⟩ | ⟨hpc, i, hi, hrun⟩ := step_fault h
    · exact .inl hfetch
    · exact .inr ⟨hpc, .inl ⟨hw, Host.Outcome.fault.inj (h.symm.trans (step_of_unknown hpc hw))⟩⟩
    · have hcause := exec_fault hrun
      rw [State.fetched_opcode, State.fetched_pc_sub_two] at hcause
      obtain ⟨rfl, hsp, hf⟩ | ⟨nnn, rfl, hsp, hf⟩ | ⟨x, hx, hk, hf⟩ := hcause
      · exact .inr ⟨hpc, .inr (.inl ⟨hi, hsp, hf⟩)⟩
      · exact .inr ⟨hpc, .inr (.inr (.inl ⟨nnn, hi, hsp, hf⟩))⟩
      · refine .inr ⟨hpc, .inr (.inr (.inr ⟨x, ?_, hk, hf⟩))⟩
        obtain rfl | rfl := hx
        · exact .inl hi
        · exact .inr hi
  · rintro (⟨hpc, rfl⟩ | ⟨hpc, ⟨hw, rfl⟩ | ⟨hi, hsp, rfl⟩ | ⟨nnn, hi, hsp, rfl⟩ | ⟨x, hi, hk, rfl⟩⟩)
    · exact step_of_not_canFetch hpc
    · exact step_of_unknown hpc hw
    · rw [step_of_decode hpc hi]
      exact s.fetched_pc_sub_two ▸ execRet_of_empty (s := s.fetched) hsp
    · rw [step_of_decode hpc hi]
      exact s.fetched_pc_sub_two ▸ execCall_of_full (s := s.fetched) nnn hsp
    · have hrun : ∀ want, skipOnKey want x s.fetched = .fault (.keypadIndexOutOfRange s.wordAtPc s.pc (s.getV x)) :=
        fun want => s.fetched_pc_sub_two ▸ skipOnKey_of_ge (s := s.fetched) want x hk
      obtain hi | hi := hi
      · rw [step_of_decode hpc hi]
        exact hrun true
      · rw [step_of_decode hpc hi]
        exact hrun false

/-- Settles O12: the report is fetch's own exactly when nothing was fetched. -/
theorem faultLeavesOnlyTheFetch : Obligations.FaultLeavesOnlyTheFetch := by
  intro s f h
  obtain ⟨hstep, hstate⟩ := cycle_fault h
  rw [hstate]
  cases hpc : s.canFetch with
  | false =>
    have hf : f = .fetchOutOfRange s.pc := Host.Outcome.fault.inj (hstep.symm.trans (step_of_not_canFetch hpc))
    exact ⟨fun _ => State.stateAtReport_of_not_canFetch hpc, fun hne => absurd hf (hne s.pc)⟩
  | true =>
    refine ⟨?notFetch, fun _ => State.stateAtReport_of_canFetch hpc⟩
    case notFetch =>
      rintro ⟨p, rfl⟩
      have hcauses := (faultsHaveExactlyTheseCauses s _).1 hstep
      simp [hpc] at hcauses

/-- Settles O13: fetch and dispatch only fault, and no arm of `exec` refuses. -/
theorem noStepIsRefused : Obligations.NoStepIsRefused := step_ne_refused

/-- `DT` is written by `Fx15` alone (R18). -/
theorem touched_dt {i : Instr} (hi : ∀ x, i ≠ .ldDtVx x) : (touched i).dt = false := by
  cases i with
  | ldDtVx x => exact absurd rfl (hi x)
  | _ => rfl

/-- Settles O14: fetch writes `opcode` and `pc` alone, and execute only what the instruction touches. -/
theorem stepLatchesOpcodeAndKeepsInputs : Obligations.StepLatchesOpcodeAndKeepsInputs := by
  intro s t h
  obtain ⟨-, i, hi, hrun⟩ := step_next h
  have hframe := exec_changesOnly hrun
  refine ⟨hframe.opcode_eq, hframe.keys_eq, fun hne => hframe.dt_eq (touched_dt fun x hx => hne x ?_)⟩
  rw [hi, hx]

end Sys2Proof
end

section
/-! SUPPORT. Flag-setting arithmetic, random, and the single writes left (spec/41_load_alu.md R96 to R103,
spec/40_control_flow.md R75 to R77, spec/42_index_memory.md R112): what each instruction is as a write of registers. -/

namespace Sys2Proof.Machine

variable (x y : Reg) (kk : Byte) (s : State)

/-! ### The instructions -/

theorem exec_seReg : exec (.seReg x y) s = .next (s.skipIf (s.getV x == s.getV y)) := rfl

theorem exec_sneReg : exec (.sneReg x y) s = .next (s.skipIf (s.getV x != s.getV y)) := rfl

theorem exec_jpV0 (nnn : Address) :
    exec (.jpV0 nnn) s = .next (s.setPc ((indexedTarget nnn (s.getV 0)).setWidth 16)) := rfl

theorem exec_ldF : exec (.ldF x) s = .next (s.setI (glyphAddress (s.getV x))) := rfl

theorem exec_rnd :
    exec (.rnd x kk) s = .next (s.setV x (Config.randomByte s.draws &&& kk)).countDraw := rfl

/-- A register as an instruction reads it once it has written its flag `f` (R102). -/
def getVAfterFlag (s : State) (f : Byte) (r : Reg) : Byte := if r = vf then f else s.getV r

theorem State.getV_setFlag_eq (f : Byte) (r : Reg) : (s.setFlag f).getV r = getVAfterFlag s f r :=
  s.getV_setFlag f r

theorem exec_addReg : exec (.addReg x y) s =
    .next ((s.setFlag (carryFlag (s.getV x) (s.getV y))).setV x (s.getV x + s.getV y)) := rfl

theorem exec_sub {f : Byte} (hf : greaterFlag (s.getV x) (s.getV y) = f) : exec (.sub x y) s =
    .next ((s.setFlag f).setV x (getVAfterFlag s f x - getVAfterFlag s f y)) := by
  rw [← State.getV_setFlag_eq, ← State.getV_setFlag_eq, ← hf]
  rfl

theorem exec_subn {f : Byte} (hf : greaterFlag (s.getV y) (s.getV x) = f) : exec (.subn x y) s =
    .next ((s.setFlag f).setV x (getVAfterFlag s f y - getVAfterFlag s f x)) := by
  rw [← State.getV_setFlag_eq, ← State.getV_setFlag_eq, ← hf]
  rfl

theorem exec_shr : exec (.shr x y) s =
    .next ((s.setFlag (lowBitFlag (s.getV x))).setV x (getVAfterFlag s (lowBitFlag (s.getV x)) x >>> 1)) := by
  rw [← State.getV_setFlag_eq]
  rfl

theorem exec_shl : exec (.shl x y) s =
    .next ((s.setFlag (highBitFlag (s.getV x))).setV x (getVAfterFlag s (highBitFlag (s.getV x)) x <<< 1)) := by
  rw [← State.getV_setFlag_eq]
  rfl

/-- The result stands in `V[x]`, over the flag when `x` is `F` (R102). -/
theorem getV_setFlag_setV_vf {x : Reg} (f b : Byte) (hx : x ≠ vf) : ((s.setFlag f).setV x b).getV vf = f := by
  rw [State.getV_setV, if_neg hx.symm, State.getV_setFlag, if_pos rfl]

theorem getVAfterFlag_of_ne {x : Reg} (f : Byte) (hx : x ≠ vf) : getVAfterFlag s f x = s.getV x := if_neg hx

theorem getVAfterFlag_vf (f : Byte) : getVAfterFlag s f vf = f := if_pos rfl

/-! ### Flags as numbers -/

variable (a b : Byte)

theorem flagByte_decide (p : Prop) [Decidable p] : flagByte (decide p) = if p then 1 else 0 := by
  by_cases hp : p <;> simp [flagByte, hp]

theorem carryFlag_eq : carryFlag a b = if 255 < a.toNat + b.toNat then 1 else 0 := flagByte_decide _

theorem greaterFlag_eq : greaterFlag a b = if b.toNat < a.toNat then 1 else 0 := flagByte_decide _

theorem toNat_lowBitFlag : (lowBitFlag a).toNat = a.toNat % 2 := by
  rw [lowBitFlag, BitVec.toNat_and]
  exact Nat.and_one_is_mod _

theorem highBitFlag_eq : highBitFlag a = if a &&& 0x80 ≠ 0 then 1 else 0 := flagByte_decide _

/-- Bit 7 of a byte is set exactly from 128 up. -/
theorem and_0x80_eq_zero_iff : a &&& 0x80 = 0 ↔ a.toNat < 128 := by
  revert a; decide

theorem toNat_highBitFlag : (highBitFlag a).toNat = a.toNat / 128 := by
  simp only [highBitFlag_eq, ne_eq, and_0x80_eq_zero_iff]
  split
  · show 1 = _; omega
  · show 0 = _; omega

theorem toNat_ushiftRight_one : (a >>> 1).toNat = a.toNat / 2 := by
  rw [BitVec.toNat_ushiftRight, Nat.shiftRight_eq_div_pow]

theorem toNat_shiftLeft_one : (a <<< 1).toNat = 2 * a.toNat % 256 := by
  rw [BitVec.toNat_shiftLeft, Nat.shiftLeft_eq]
  omega

theorem toNat_sub_eq : (a - b).toNat = (a.toNat + 256 - b.toNat) % 256 := by
  rw [BitVec.toNat_sub]
  omega

end Sys2Proof.Machine

namespace Sys2Proof

open Sys2Proof.Machine

/-! ### Control flow -/

/-- Settles O26: the target is the sum as an address, so modulo 4096, and only `pc` is written. -/
theorem indexedJumpAddsV0 : Obligations.IndexedJumpAddsV0 := by
  refine ⟨decodeWord_jpV0, fun s nnn => ⟨_, exec_jpV0 s nnn, ?target, changesOnly_setPc s _⟩⟩
  case target => rw [State.setPc_pc, toNat_setWidth_address, toNat_indexedTarget]

/-- Settles O28: the low nibble is tested in dispatch; both are a skip, on `V[x] = V[y]` and on its negation. -/
theorem skipsOnRegisters : Obligations.SkipsOnRegisters := by
  refine ⟨fun x y n => ⟨decodeWord_family5 x y n, decodeWord_family9 x y n⟩, fun s x y => ⟨?se, ?sne⟩⟩
  case se =>
    refine ⟨_, exec_seReg x y s, ?_, changesOnly_skipIf s _⟩
    simp only [State.skipIf_pc, beq_iff_eq]
  case sne =>
    refine ⟨_, exec_sneReg x y s, ?_, changesOnly_skipIf s _⟩
    simp only [State.skipIf_pc, bne_iff_ne, ne_eq, ite_not]

/-- Settles O24: CALL leaves its return address on top, and RET finds the same stack and `sp` in any later state. -/
theorem returnAfterCallContinuesAfterTheCall : Obligations.ReturnAfterCallContinuesAfterTheCall := by
  intro s nnn h
  refine ⟨_, execCall_of_lt nnn h, fun u hstack hsp => ?_⟩
  have hval : u.sp.val = s.sp.val + 1 := congrArg Fin.val hsp
  refine ⟨_, execRet_of_pos (by omega), ?pc, Fin.ext ?sp⟩
  case pc =>
    rw [State.setPc_pc, State.topOfStack_eq (k := ⟨s.sp.val, h⟩) hval, hstack]
    simp
  case sp =>
    show u.sp.val - 1 = s.sp.val
    omega

/-! ### Index register -/

/-- Settles O40: the glyph address of a byte stays below 4096, so writing it as an address loses nothing. -/
theorem indexPointsAtTheGlyph : Obligations.IndexPointsAtTheGlyph := by
  refine fun s x => ⟨_, exec_ldF x s, ?_, changesOnly_setI s _⟩
  rw [State.setI_i, toNat_setWidth_address, toNat_glyphAddress]

/-! ### Arithmetic -/

/-- Settles O32: the sum of the old operands is written after the carry. -/
theorem addSetsCarry : Obligations.AddSetsCarry := by
  refine fun s x y => ⟨_, exec_addReg x y s, ?sum, fun hx => ?carry, changesOnly_setFlag_setV s _ x _⟩
  case sum => rw [State.getV_setV_self, BitVec.toNat_add]
  case carry => rw [getV_setFlag_setV_vf s _ _ hx, carryFlag_eq]

/-- Settles O33: the difference is of the operands as they are read once the flag is written. -/
theorem subtractSetsStrictlyGreater : Obligations.SubtractSetsStrictlyGreater := by
  intro s x y f hf
  have hflag : greaterFlag (s.getV x) (s.getV y) = f := (greaterFlag_eq _ _).trans hf.symm
  refine ⟨_, exec_sub x y s hflag, ?difference, getV_setFlag_setV_vf s f _, changesOnly_setFlag_setV s f x _⟩
  case difference =>
    rw [State.getV_setV_self, toNat_sub_eq]
    rfl

/-- Settles O34: as SUB, with the operands the other way round. -/
theorem reverseSubtractSetsStrictlyGreater : Obligations.ReverseSubtractSetsStrictlyGreater := by
  intro s x y f hf
  have hflag : greaterFlag (s.getV y) (s.getV x) = f := (greaterFlag_eq _ _).trans hf.symm
  refine ⟨_, exec_subn x y s hflag, ?difference, getV_setFlag_setV_vf s f _, changesOnly_setFlag_setV s f x _⟩
  case difference =>
    rw [State.getV_setV_self, toNat_sub_eq]
    rfl

/-- Settles O35: with `x` not `F` the old `V[x]` is halved; with `x = F` the flag, 0 or 1, is halved, to 0. -/
theorem shiftRightSetsTheBitShiftedOut : Obligations.ShiftRightSetsTheBitShiftedOut := by
  intro s x y
  refine ⟨_, exec_shr x y s, fun hx => ⟨?half, ?flag⟩, ?overwritten, changesOnly_setFlag_setV s _ x _⟩
  case half => rw [State.getV_setV_self, getVAfterFlag_of_ne s _ hx, toNat_ushiftRight_one]
  case flag => rw [getV_setFlag_setV_vf s _ _ hx, toNat_lowBitFlag]
  case overwritten =>
    rintro rfl
    refine BitVec.eq_of_toNat_eq ?_
    rw [State.getV_setV_self, getVAfterFlag_vf, toNat_ushiftRight_one, toNat_lowBitFlag]
    exact Nat.div_eq_of_lt (Nat.mod_lt _ (by decide))

/-- Settles O36: with `x` not `F` the old `V[x]` is doubled; with `x = F` the flag, 0 or 1, is doubled. -/
theorem shiftLeftSetsTheBitShiftedOut : Obligations.ShiftLeftSetsTheBitShiftedOut := by
  intro s x y
  refine ⟨_, exec_shl x y s, fun hx => ⟨?double, ?flag⟩, ?overwritten, changesOnly_setFlag_setV s _ x _⟩
  case double => rw [State.getV_setV_self, getVAfterFlag_of_ne s _ hx, toNat_shiftLeft_one]
  case flag => rw [getV_setFlag_setV_vf s _ _ hx, toNat_highBitFlag]
  case overwritten =>
    rintro rfl
    rw [State.getV_setV_self, getVAfterFlag_vf, toNat_shiftLeft_one, toNat_highBitFlag]
    omega

/-! ### Random -/

/-- Settles O37: the byte written is the one at the old draw index AND `kk`, whatever byte that is. -/
theorem randomIsMaskedByImmediate : Obligations.RandomIsMaskedByImmediate := by
  intro s x kk
  have hv : (s.setV x (Config.randomByte s.draws &&& kk)).countDraw.getV x = Config.randomByte s.draws &&& kk := by
    rw [State.getV_countDraw, State.getV_setV_self]
  refine ⟨_, exec_rnd x kk s, hv, fun j hj => ?masked, rfl, changesOnly_setV_countDraw s x _⟩
  case masked => rw [hv, BitVec.getLsbD_and, hj, Bool.and_false]

end Sys2Proof
end

section
/-! SUPPORT. Drawing (spec/43_display.md R121, R122), `VF` as a flag (spec/10_state.md R12), and the registers that
`Fx55` stores as `Fx65` and the next fetch read them (spec/42_index_memory.md R114, R115; spec/20_memory.md R43). -/

namespace Sys2Proof.Machine

variable {s t : State} {x y : Reg} {n : RowCount}

/-! ### The cells of a sprite -/

/-- The cells `Dxyn` draws from `s` (R121). -/
def coveredCells (s : State) (x y : Reg) (n : RowCount) : List VideoCell :=
  spriteCells s (startColumn (s.getV x)) (startRow (s.getV y)) n.val

theorem mem_coveredCells {c : VideoCell} : c ∈ coveredCells s x y n ↔ Covered s x y n c := by
  simp only [coveredCells, mem_spriteCells, Covered, SpriteBit, and_assoc]

theorem nodup_coveredCells (s : State) (x y : Reg) (n : RowCount) : (coveredCells s x y n).Nodup :=
  nodup_spriteCells _ _ _ (by omega)

/-- A flag write moves no sprite byte, so `Dxyn` draws the cells covered before it (R121). -/
theorem exec_drw (x y : Reg) (n : RowCount) (s : State) :
    exec (.drw x y n) s = .next ((coveredCells s x y n).foldl drawCell (s.setFlag 0)) := execDrw_eq x y n s

/-- Which cells a sprite covers depends on the position registers, main memory and `I` alone. -/
theorem covered_congr (hx : t.getV x = s.getV x) (hy : t.getV y = s.getV y) (hi : t.i = s.i)
    (hm : ∀ a, t.readByte a = s.readByte a) {c : VideoCell} : Covered t x y n c ↔ Covered s x y n c := by
  simp only [Covered, SpriteBit, hx, hy, hi, hm]

end Sys2Proof.Machine

namespace Sys2Proof

open Sys2Proof.Machine

/-! ### DRW -/

/-- Settles O48: no cell is drawn twice, so each drawn cell is inverted once and tested as it was before the draw. -/
theorem drawInvertsExactlyTheSprite : Obligations.DrawInvertsExactlyTheSprite := by
  intro s x y n
  have hnodup := nodup_coveredCells s x y n
  have hpixel (c : VideoCell) := foldl_drawCell_pixel _ hnodup (s.setFlag 0) c
  have hflag := foldl_drawCell_getV _ hnodup (s.setFlag 0) vf
  refine ⟨_, exec_drw x y n s, fun c hc => ?inverted, fun c hc => ?unchanged, fun ⟨c, hc, hon⟩ => ?collision,
    fun hoff => ?none, changesOnly_foldl_drawCell hnodup s 0⟩
  case inverted => rw [hpixel, if_pos (mem_coveredCells.2 hc), State.pixel_setFlag]
  case unchanged => rw [hpixel, if_neg (mt mem_coveredCells.1 hc), State.pixel_setFlag]
  case collision => rw [hflag, if_pos ⟨rfl, c, mem_coveredCells.2 hc, hon⟩]
  case none =>
    rw [hflag, if_neg, State.getV_setFlag, if_pos rfl]
    rintro ⟨-, c, hc, hon⟩
    exact Bool.false_ne_true ((hoff c (mem_coveredCells.1 hc)).symm.trans hon)

/-- Settles O49: the second draw covers the same cells, so it inverts them back, and finds on what was off before. -/
theorem secondDrawRestoresTheScreen : Obligations.SecondDrawRestoresTheScreen := by
  intro s x y n
  obtain ⟨t, hrun, hin, hout, -, -, hframe⟩ := drawInvertsExactlyTheSprite s x y n
  refine ⟨t, hrun, fun hx hy => ?_⟩
  have hcov (c : VideoCell) : Covered t x y n c ↔ Covered s x y n c :=
    covered_congr hx hy (hframe.i_eq rfl) fun a => hframe.readByte_eq List.not_mem_nil
  obtain ⟨u, hrun', hin', hout', hcollision, hnone, -⟩ := drawInvertsExactlyTheSprite t x y n
  simp only [hcov] at hin' hout' hcollision hnone
  refine ⟨u, hrun', fun c => ?restored, fun ⟨c, hc, hoff⟩ => ?collision, fun hon => hnone fun c hc => ?none⟩
  case restored =>
    by_cases hc : Covered s x y n c
    · rw [hin' c hc, hin c hc, Bool.not_not]
    · rw [hout' c hc, hout c hc]
  case collision => exact hcollision ⟨c, hc, by rw [hin c hc, hoff]; rfl⟩
  case none => rw [hin c hc, hon c hc]; rfl

/-! ### VF -/

/-- After `Dxyn` `VF` tells whether a cell went from on to off (R121). -/
theorem drw_flag {s t : State} {x y : Reg} {n : RowCount} (h : exec (.drw x y n) s = .next t) :
    ((∃ c, s.pixel c = true ∧ t.pixel c = false) → t.getV vf = 1) ∧
    ((∀ c, s.pixel c = true → t.pixel c = true) → t.getV vf = 0) := by
  obtain ⟨t', hrun, hin, hout, hcollision, hnone, -⟩ := drawInvertsExactlyTheSprite s x y n
  obtain rfl : t = t' := Host.Outcome.next.inj (h.symm.trans hrun)
  refine ⟨fun ⟨c, hon, hoff⟩ => hcollision ⟨c, ?covered, hon⟩, fun hkept => hnone fun c hc => ?off⟩
  case covered =>
    by_contra hc
    rw [hout c hc, hon] at hoff
    cases hoff
  case off =>
    by_contra hon
    rw [Bool.not_eq_false] at hon
    have hkept := hkept c hon
    rw [hin c hc, hon] at hkept
    cases hkept

/-- An instruction whose row does not name `VF` leaves it alone (R12). -/
theorem vf_eq_of_touched {i : Instr} {s t : State} (h : exec i s = .next t) (hi : vf ∉ (touched i).regs) :
    t.getV vf = s.getV vf := (exec_changesOnly h).getV_eq hi

/-- Settles O38: the five ALU instructions write the flag last but for `V[x]`; `Dxyn` clears it and sets it at a
collision; the row of every other instruction names `VF` only as its destination. -/
theorem flagRegisterIsWrittenByExactlySixInstructions : Obligations.FlagRegisterIsWrittenByExactlySixInstructions := by
  refine ⟨fun s t x y hx => ⟨?add, ?sub, ?shr, ?subn, ?shl⟩, fun s t x y n h => drw_flag h,
    fun i s t h hflags hdrw hdest hDt hK hMem => vf_eq_of_touched h ?others⟩
  case add =>
    rw [exec_addReg]
    rintro ⟨⟩
    rw [getV_setFlag_setV_vf s _ _ hx, carryFlag_eq]
  case sub =>
    rw [exec_sub x y s rfl]
    rintro ⟨⟩
    rw [getV_setFlag_setV_vf s _ _ hx, greaterFlag_eq]
  case shr =>
    rw [exec_shr]
    rintro ⟨⟩
    rw [getV_setFlag_setV_vf s _ _ hx, lowBitFlag]
  case subn =>
    rw [exec_subn x y s rfl]
    rintro ⟨⟩
    rw [getV_setFlag_setV_vf s _ _ hx, greaterFlag_eq]
  case shl =>
    rw [exec_shl]
    rintro ⟨⟩
    rw [getV_setFlag_setV_vf s _ _ hx, highBitFlag_eq]
  case others =>
    intro hmem
    cases i with
    | addReg x y | sub x y | shr x y | subn x y | shl x y => simpa using hflags x y
    | drw x y n => exact hdrw x y n rfl
    | ldImm x b | addImm x b | rnd x b =>
      obtain rfl := List.mem_singleton.1 hmem
      simpa using hdest b 0
    | ldReg x y | orReg x y | andReg x y | xorReg x y =>
      obtain rfl := List.mem_singleton.1 hmem
      simpa using hdest 0 y
    | ldVxDt x =>
      obtain rfl := List.mem_singleton.1 hmem
      exact hDt rfl
    | ldVxK x =>
      obtain rfl := List.mem_singleton.1 hmem
      exact hK rfl
    | ldVxMem x =>
      obtain rfl : x = vf := Fin.le_antisymm (Fin.le_last x) (mem_regsUpTo.1 hmem)
      exact hMem rfl
    | _ => cases hmem

/-! ### Stored registers -/

/-- Settles O44: `Fx55` leaves each register at `ea(I + r)`, and `Fx65` reads each register from there. -/
theorem storedRegistersLoadBack : Obligations.StoredRegistersLoadBack := by
  intro s u x hm
  refine ⟨_, exec_ldMemVx x s, fun humem hui => ⟨_, exec_ldVxMem x u, fun r hr => ?_⟩⟩
  have hi : u.i = s.i := by rw [hui, foldl_storeReg_eq]
  have hstored := foldl_storeReg_read _ (nodup_regsUpTo x) hm (mem_regsUpTo.2 hr)
  rw [foldl_loadReg_getV, if_pos (mem_regsUpTo.2 hr), hi, State.readByte, humem]
  exact hstored

/-- The cell after `ea(I + j)` is `ea(I + j + 1)` (R36). -/
theorem ea_succ {i w : Word} {j : Nat} (h : ea i j = w.setWidth 12) : ea i (j + 1) = (w + 1).setWidth 12 := by
  have hn := congrArg BitVec.toNat h
  rw [toNat_ea, BitVec.toNat_setWidth] at hn
  refine BitVec.eq_of_toNat_eq ?_
  rw [toNat_ea, BitVec.toNat_setWidth, BitVec.toNat_add]
  show _ = (w.toNat + 1) % 65536 % 4096
  omega

/-- Settles O45: the loop leaves `V[j]` and `V[k]` in the two cells fetch reads, and `pc` where it was. -/
theorem nextFetchSeesTheStore : Obligations.NextFetchSeesTheStore := by
  intro s x j k hm _ hk hkx hj
  have hpc : ((regsUpTo x).foldl storeReg s).pc = s.pc := by rw [foldl_storeReg_eq]
  have hstored (r : Reg) (hr : r.val ≤ x.val) := foldl_storeReg_read _ (nodup_regsUpTo x) hm (mem_regsUpTo.2 hr)
  refine ⟨_, exec_ldMemVx x s, hpc, ?_⟩
  rw [State.fetched_opcode, State.wordAtPc_eq, hpc, ← ea_succ hj, ← hk, ← hj, hstored j (by omega), hstored k hkx]

end Sys2Proof
end

section
/-! SUPPORT. The keypad instructions (spec/44_keypad_timers.md R130, R131, R133). -/

namespace Sys2Proof.Machine

variable {s : State}

/-- With a key's number in `V[x]` the skip is on whether that key is pressed as wanted (R130, R131). -/
theorem skipOnKey_of_key (want : Bool) {x : Reg} {k : Key} (h : (s.getV x).toNat = k.val) :
    skipOnKey want x s = .next (s.skipIf (s.keys[k.val] == want)) := by
  have hlt : (s.getV x).toNat < 16 := h ▸ k.isLt
  have hkey : (⟨(s.getV x).toNat, hlt⟩ : Key) = k := Fin.ext h
  rw [skipOnKey_of_lt want x hlt, hkey]
  rfl

theorem toNat_keyByte (k : Key) : (BitVec.ofNat 8 k.val).toNat = k.val := by
  rw [BitVec.toNat_ofNat]
  omega

/-- With a key pressed `Fx0A` selects a pressed key (R133). -/
theorem exists_selectKey_eq_some {k : Key} (h : s.keys[k.val] = true) :
    ∃ j : Key, selectKey s.keys = some j ∧ s.keys[j.val] = true := by
  cases hj : selectKey s.keys with
  | none => exact absurd h (ne_true_of_eq_false (selectKey_eq_none.1 hj k))
  | some j => exact ⟨j, rfl, keyPressed_of_selectKey hj⟩

/-- An `Fx0A` held with no key pressed goes back to itself: only `opcode` has changed (R133). -/
theorem cycle_ldVxK_held {x : Reg} (hpc : s.canFetch = true) (hi : decodeWord s.wordAtPc = some (.ldVxK x))
    (hkeys : ∀ k : Key, s.keys[k.val] = false) : cycle s = ({ s with opcode := s.wordAtPc }, .held) := by
  have hrun : step s = .next (s.fetched.setPc (s.fetched.pc - 2)) :=
    (step_of_decode hpc hi).trans (execLdVxK_of_none x (s := s.fetched) (selectKey_eq_none.2 hkeys))
  have hnone : pressedKeys s.keys = [] := List.eq_nil_iff_forall_not_mem.2 fun k hk =>
    ne_true_of_eq_false (hkeys k) (mem_pressedKeys.1 hk)
  have hheld : isHeld s = true := by simp [isHeld, hi, hnone]
  rw [cycle, hrun, State.fetched_pc_sub_two, hheld]
  rfl

end Sys2Proof.Machine

namespace Sys2Proof

open Sys2Proof.Machine

/-- Settles O50: both skips test the key that the value of `V[x]` names, and above 15 there is none. -/
theorem keySkipsTestTheKey : Obligations.KeySkipsTestTheKey := by
  refine ⟨fun s x k hk => ⟨?pressed, ?notPressed⟩,
    fun s x hx => ⟨skipOnKey_of_ge true x hx, skipOnKey_of_ge false x hx⟩⟩
  case pressed =>
    refine ⟨_, skipOnKey_of_key true hk, ?_, changesOnly_skipIf s _⟩
    simp only [State.skipIf_pc, beq_iff_eq]
  case notPressed =>
    refine ⟨_, skipOnKey_of_key false hk, ?_, changesOnly_skipIf s _⟩
    cases hkey : s.keys[k.val] <;> simp [State.skipIf_pc]

/-- Settles O52: with no key pressed none is selected, with some pressed one of them is. -/
theorem keyWaitHoldsOrLoadsAPressedKey : Obligations.KeyWaitHoldsOrLoadsAPressedKey := by
  refine ⟨fun s x hnone => ?holds, fun s x k hk => ?loads, fun s x hpc hi hnone => cycle_ldVxK_held hpc hi hnone⟩
  case holds =>
    exact ⟨_, execLdVxK_of_none x (selectKey_eq_none.2 hnone), s.setPc_pc _, changesOnly_setPc s _⟩
  case loads =>
    obtain ⟨j, hsel, hj⟩ := exists_selectKey_eq_some hk
    have hv : ((s.setV x (BitVec.ofNat 8 j.val)).getV x).toNat = j.val := by
      rw [State.getV_setV_self, toNat_keyByte]
    exact ⟨_, execLdVxK_of_some x hsel, changesOnly_setV s x _, ⟨j, hj, hv⟩, fun honly => honly j hj ▸ hv⟩

end Sys2Proof
end

section
/-! SUPPORT. Noninterference in the stack and in the video (spec/10_state.md R16, R17, R21): all but four instructions
commute with a change of both, and each of the four with a change of the part it does not use. -/

namespace Sys2Proof.Machine

/-- The state with another stack, `sp` and video. -/
def State.withStackVideo (k : Vector Word 16) (p : Fin 17) (b : Vector (BitVec 64) 32) (s : State) : State :=
  { s with stack := k, sp := p, video := b }

section
variable (k : Vector Word 16) (p : Fin 17) (b : Vector (BitVec 64) 32) (s : State)

theorem State.skipIf_withStackVideo (c : Bool) :
    (s.withStackVideo k p b).skipIf c = (s.skipIf c).withStackVideo k p b := by
  cases c <;> rfl

theorem skipOnKey_withStackVideo (want : Bool) (x : Reg) :
    skipOnKey want x (s.withStackVideo k p b) = mapNext (State.withStackVideo k p b) (skipOnKey want x s) := by
  by_cases h : (s.getV x).toNat < 16
  · rw [skipOnKey_of_lt want x h, skipOnKey_of_lt (s := s.withStackVideo k p b) want x h, State.skipIf_withStackVideo]
    rfl
  · have hge : 16 ≤ (s.getV x).toNat := by omega
    rw [skipOnKey_of_ge want x hge, skipOnKey_of_ge (s := s.withStackVideo k p b) want x hge]
    rfl

theorem execLdVxK_withStackVideo (x : Reg) :
    execLdVxK x (s.withStackVideo k p b) = mapNext (State.withStackVideo k p b) (execLdVxK x s) := by
  cases h : selectKey s.keys with
  | none =>
    rw [execLdVxK_of_none x h, execLdVxK_of_none (s := s.withStackVideo k p b) x h]
    rfl
  | some j =>
    rw [execLdVxK_of_some x h, execLdVxK_of_some (s := s.withStackVideo k p b) x h]
    rfl

/-- The other thirty instructions read and write neither the stack nor the video (R16, R17, R21). -/
theorem exec_withStackVideo (i : Instr) (hret : i ≠ .ret) (hcall : ∀ nnn, i ≠ .call nnn) (hcls : i ≠ .cls)
    (hdrw : ∀ x y n, i ≠ .drw x y n) :
    exec i (s.withStackVideo k p b) = mapNext (State.withStackVideo k p b) (exec i s) := by
  cases i with
  | ret => exact absurd rfl hret
  | call nnn => exact absurd rfl (hcall nnn)
  | cls => exact absurd rfl hcls
  | drw x y n => exact absurd rfl (hdrw x y n)
  | skp x => exact skipOnKey_withStackVideo k p b s true x
  | sknp x => exact skipOnKey_withStackVideo k p b s false x
  | ldVxK x => exact execLdVxK_withStackVideo k p b s x
  | seImm _ _ | sneImm _ _ | seReg _ _ | sneReg _ _ =>
    exact congrArg Host.Outcome.next (s.skipIf_withStackVideo k p b _)
  | ldMemVx x => exact congrArg Host.Outcome.next (List.foldl_hom (State.withStackVideo k p b) fun _ _ => rfl)
  | ldVxMem x => exact congrArg Host.Outcome.next (List.foldl_hom (State.withStackVideo k p b) fun _ _ => rfl)
  | _ => rfl

end

/-- Two changes that agree on the next state are one change of the outcome. -/
theorem mapNext_congr {f g : State → State} {r : Result} (h : ∀ t, r = .next t → f t = g t) :
    mapNext f r = mapNext g r := by
  cases r with
  | next t => exact congrArg Host.Outcome.next (h t rfl)
  | fault e => rfl
  | refused e => rfl

/-! ### The stack -/

theorem touched_video {i : Instr} (hcls : i ≠ .cls) (hdrw : ∀ x y n, i ≠ .drw x y n) : (touched i).video = false := by
  cases i with
  | cls => exact absurd rfl hcls
  | drw x y n => exact absurd rfl (hdrw x y n)
  | _ => rfl

/-- The state with another stack and `sp`. -/
def State.withStack (k : Vector Word 16) (p : Fin 17) (s : State) : State := { s with stack := k, sp := p }

section
variable (k : Vector Word 16) (p : Fin 17) (s : State)

theorem drawCell_withStack (c : VideoCell) : drawCell (s.withStack k p) c = (drawCell s c).withStack k p := by
  have hpixel : (s.withStack k p).pixel c = s.pixel c := rfl
  rw [drawCell, drawCell, hpixel]
  split <;> rfl

theorem foldl_drawCell_withStack (cs : List VideoCell) :
    cs.foldl drawCell (s.withStack k p) = (cs.foldl drawCell s).withStack k p :=
  List.foldl_hom (State.withStack k p) fun t c => drawCell_withStack k p t c

/-- Drawing uses neither the stack nor `sp` (R121). -/
theorem exec_drw_withStack (x y : Reg) (n : RowCount) :
    exec (.drw x y n) (s.withStack k p) = mapNext (State.withStack k p) (exec (.drw x y n) s) := by
  rw [exec_drw, exec_drw]
  exact congrArg Host.Outcome.next (foldl_drawCell_withStack k p (s.setFlag 0) _)

end

/-! ### The video -/

theorem touched_stack_sp {i : Instr} (hret : i ≠ .ret) (hcall : ∀ nnn, i ≠ .call nnn) :
    (touched i).stack = false ∧ (touched i).sp = false := by
  cases i with
  | ret => exact absurd rfl hret
  | call nnn => exact absurd rfl (hcall nnn)
  | _ => exact ⟨rfl, rfl⟩

theorem execRet_setVideo (s : State) (b : Vector (BitVec 64) 32) :
    execRet (s.setVideo b) = mapNext (·.setVideo b) (execRet s) := by
  by_cases h : s.sp.val = 0
  · rw [execRet_of_empty h, execRet_of_empty (s := s.setVideo b) h]
    rfl
  · rw [execRet_of_pos h, execRet_of_pos (s := s.setVideo b) h]
    rfl

theorem execCall_setVideo (s : State) (b : Vector (BitVec 64) 32) (nnn : Address) :
    execCall nnn (s.setVideo b) = mapNext (·.setVideo b) (execCall nnn s) := by
  by_cases h : s.sp.val < 16
  · rw [execCall_of_lt nnn h, execCall_of_lt (s := s.setVideo b) nnn h]
    rfl
  · have hfull : s.sp.val = 16 := by omega
    rw [execCall_of_full nnn hfull, execCall_of_full (s := s.setVideo b) nnn hfull]
    rfl

end Sys2Proof.Machine

namespace Sys2Proof

open Sys2Proof.Machine

/-- Settles O55: CLS and DRW use no stack, and the rest commute with a new stack beside the old video, which they
keep. -/
theorem callStackIsReachedOnlyByCallAndReturn : Obligations.CallStackIsReachedOnlyByCallAndReturn := by
  intro i s k p hret hcall
  by_cases hcls : i = .cls
  · rw [hcls]
    rfl
  by_cases hdrw : ∃ x y n, i = .drw x y n
  · obtain ⟨x, y, n, rfl⟩ := hdrw
    exact exec_drw_withStack k p s x y n
  · have hdrw : ∀ x y n, i ≠ .drw x y n := fun x y n h => hdrw ⟨x, y, n, h⟩
    refine (exec_withStackVideo k p s.video s i hret hcall hcls hdrw).trans (mapNext_congr fun t ht => ?_)
    rw [State.withStackVideo, ← (exec_changesOnly ht).video_eq (touched_video hcls hdrw)]

/-- Settles O56: RET and CALL use no video, and the rest commute with a new video beside the old stack, which they
keep. -/
theorem videoIsReachedOnlyByClearAndDraw : Obligations.VideoIsReachedOnlyByClearAndDraw := by
  intro i s b hcls hdrw
  by_cases hret : i = .ret
  · rw [hret]
    exact execRet_setVideo s b
  by_cases hcall : ∃ nnn, i = .call nnn
  · obtain ⟨nnn, rfl⟩ := hcall
    exact execCall_setVideo s b nnn
  · have hcall : ∀ nnn, i ≠ .call nnn := fun nnn h => hcall ⟨nnn, h⟩
    refine (exec_withStackVideo s.stack s.sp b s i hret hcall hcls hdrw).trans (mapNext_congr fun t ht => ?_)
    obtain ⟨hstack, hsp⟩ := touched_stack_sp hret hcall
    rw [State.withStackVideo, ← (exec_changesOnly ht).stack_eq hstack, ← (exec_changesOnly ht).sp_eq hsp]
    rfl

end Sys2Proof
end

section
/-! SUPPORT. The reset state (spec/10_state.md R27) and loading an image (spec/70_reset_and_hazards.md R162, R165). -/

namespace Sys2Proof.Machine

/-! ### Reset -/

theorem resetByte_of_outside_font {a : Nat} (h : a < 0x050 ∨ 0x0A0 ≤ a) : resetByte a = 0 := by
  refine if_neg ?_
  simp only [Config.fontStart, Config.fontBytes]
  omega

/-! ### Load -/

variable {s : State} {bytes : List Byte}

theorem load_of_le (h : bytes.length ≤ 3584) :
    load bytes s = .ok { s with mem := memWriteList s.mem 0x200 bytes } := if_pos h

theorem load_of_gt (h : 3584 < bytes.length) : load bytes s = .error ⟨bytes.length⟩ := if_neg (Nat.not_le.2 h)

theorem toNat_loadAddress {k : Nat} (h : k < 3584) : (BitVec.ofNat 12 (0x200 + k)).toNat = 0x200 + k := by
  rw [BitVec.toNat_ofNat]
  exact Nat.mod_eq_of_lt (by omega)

/-- An image of at most 3584 bytes ends at the top of memory or below (R163). -/
theorem loadEnd_le (h : bytes.length ≤ 3584) : 0x200 + bytes.length ≤ Config.memSize := by
  simp only [Config.memSize]
  omega

/-- Copying the same bytes twice leaves what one copy leaves. -/
theorem memWriteList_idem {m : Memory} {a : Nat} (h : a + bytes.length ≤ Config.memSize) (hm : memWf m = true) :
    memWriteList (memWriteList m a bytes) a bytes = memWriteList m a bytes := by
  have hm' := memWf_memWriteList h hm
  refine eq_of_memRead_eq (memWf_memWriteList h hm') hm' fun b _ => ?_
  rw [memRead_memWriteList h hm']
  split
  next hb => rw [memRead_memWriteList h hm, if_pos hb]
  next => rfl

end Sys2Proof.Machine

namespace Sys2Proof

open Sys2Proof.Machine

/-- Settles O1: no cell is listed, so each reads as its reset contents, and every other part is a constant. -/
theorem resetLeavesTheStatedValues : Obligations.ResetLeavesTheStatedValues := by
  refine ⟨fun a ha => resetByte_of_outside_font ha, by decide, rfl, by decide, rfl, rfl, rfl, fun c => ?off⟩
  case off => exact cellOn_blankVideo c

/-- Settles O2: the font stands in the unlisted cells from `0x050`, and the rest are constants. -/
theorem resetLeavesTheChosenValues : Obligations.ResetLeavesTheChosenValues := by
  unfold Obligations.ResetLeavesTheChosenValues
  decide

/-- Settles O57: the copy of a short image is read back byte by byte, and a canonical memory copied onto twice is the
one copied onto once; a long image is rejected before anything is written. -/
theorem loadCopiesTheImageOrRejectsIt : Obligations.LoadCopiesTheImageOrRejectsIt := by
  refine ⟨fun s bytes hm hlen => ?copies, fun s bytes hlen => ⟨load_of_gt hlen, ?rejects⟩⟩
  case copies =>
    have hread := memRead_memWriteList (loadEnd_le hlen) hm
    refine ⟨_, load_of_le hlen, fun k hk => ?byte, changesOnly_with_mem fun a ha => ?frame, ?again⟩
    case byte =>
      rw [State.readByte, toNat_loadAddress (by omega), hread, if_pos (by omega), Nat.add_sub_cancel_left]
    case frame =>
      rw [hread, if_neg]
      · rfl
      · rintro ⟨hlo, hhi⟩
        refine ha (List.mem_map.2 ⟨a.toNat - 0x200, List.mem_range.2 (by omega), BitVec.eq_of_toNat_eq ?_⟩)
        rw [toNat_loadAddress (by omega)]
        omega
    case again => rw [load_of_le hlen, memWriteList_idem (loadEnd_le hlen) hm]
  case rejects =>
    rw [perform_of_running rfl, performRunning, load_of_gt hlen]

end Sys2Proof
end

section
/-! SUPPORT. Runs (spec/60_exceptions.md R149, R158; spec/70_reset_and_hazards.md R170): what holds along every sequence
of host operations, by induction on the sequence. -/

namespace Sys2Proof.Machine

variable {s t : State} {i : Instr}

theorem runOps_cons (op : HostOp) (ops : List HostOp) (r : Session) :
    runOps (op :: ops) r = runOps ops (perform op r).1 := rfl

/-- A run that a fault has ended stays as it is until a reset (R149). -/
theorem runOps_of_ended {ops : List HostOp} {r : Session} {f : Fault} (h : r.ended = some f)
    (hops : HostOp.reset ∉ ops) : runOps ops r = r := by
  induction ops with
  | nil => rfl
  | cons op ops ih =>
    rw [runOps_cons, perform_of_ended h (List.ne_of_not_mem_cons hops).symm]
    exact ih (List.not_mem_of_not_mem_cons hops)

/-- A cycle whose step answers a next state leaves that state, held or completed (R51). -/
theorem cycle_of_step_next (h : step s = .next t) : (cycle s).1 = t ∧ (cycle s).2.faultOf = none := by
  rw [cycle, h]
  cases hheld : isHeld s <;> simp [CycleReport.faultOf]

/-! ### The draw index -/

theorem touched_draws (hi : ∀ x kk, i ≠ .rnd x kk) : (touched i).draws = false := by
  cases i with
  | rnd x kk => exact absurd rfl (hi x kk)
  | _ => rfl

theorem draws_of_exec_rnd {x : Reg} {kk : Byte} (h : exec (.rnd x kk) s = .next t) : t.draws = s.draws + 1 := by
  rw [exec_rnd] at h
  cases h
  rfl

/-- No instruction takes the draw index back (R103). -/
theorem draws_le_of_exec (h : exec i s = .next t) : s.draws ≤ t.draws := by
  by_cases hi : ∃ x kk, i = .rnd x kk
  · obtain ⟨x, kk, rfl⟩ := hi
    rw [draws_of_exec_rnd h]
    exact Nat.le_succ _
  · exact ((exec_changesOnly h).draws_eq (touched_draws fun x kk e => hi ⟨x, kk, e⟩)).ge

/-- The state a cycle leaves is the step's, or that of a report, in which fetch has written only `opcode` and `pc`. -/
theorem draws_le_cycle (s : State) : s.draws ≤ (cycle s).1.draws := by
  have hreport : s.draws ≤ s.stateAtReport.draws := by
    unfold State.stateAtReport
    split <;> exact le_rfl
  unfold cycle
  split
  next t h =>
    obtain ⟨-, i, -, hrun⟩ := step_next h
    exact draws_le_of_exec (s := s.fetched) hrun
  next => exact hreport
  next => exact hreport

theorem draws_le_performRunning (op : HostOp) (s : State) : s.draws ≤ (performRunning op s).1.machine.draws := by
  cases op with
  | cycle => exact draws_le_cycle s
  | load bytes =>
    by_cases h : bytes.length ≤ 3584
    · rw [performRunning, load_of_le h]
    · rw [performRunning, load_of_gt (Nat.not_le.1 h)]
  | reset | tick | writeKeypad _ => exact le_rfl

theorem draws_le_perform (op : HostOp) (r : Session) : r.machine.draws ≤ (perform op r).1.machine.draws := by
  by_cases hop : op = .reset
  · rw [hop, perform_reset]
    exact le_rfl
  · cases he : r.ended with
    | some f => rw [perform_of_ended he hop]
    | none =>
      rw [perform_of_running he]
      exact draws_le_performRunning op r.machine

theorem draws_le_runOps (ops : List HostOp) (r : Session) : r.machine.draws ≤ (runOps ops r).machine.draws := by
  induction ops generalizing r with
  | nil => exact le_rfl
  | cons op ops ih => exact (draws_le_perform op r).trans (ih _)

/-! ### The end of a program -/

/-- `t` differs from `s` at most in `opcode`, the timers and the keypad. -/
def SameButInputs (s t : State) : Prop :=
  t = { s with opcode := t.opcode, dt := t.dt, st := t.st, keys := t.keys }

theorem SameButInputs.refl (s : State) : SameButInputs s s := rfl

theorem SameButInputs.trans {u : State} (hst : SameButInputs s t) (htu : SameButInputs t u) : SameButInputs s u := by
  unfold SameButInputs at hst htu ⊢
  rw [htu, hst]

/-- `pc` and main memory, on which `Finished` rests, are not inputs. -/
theorem SameButInputs.finished (hst : SameButInputs s t) (h : Finished s) : Finished t := by
  rw [hst]
  exact h

/-- An address with the family nibble of JP in front is the JP to that address (R170). -/
theorem selfJump_eq_formA {w : Word} (h : w.toNat < 4096) : 0x1000#16 ||| w = formA 0x1 (w.setWidth 12) := by
  refine BitVec.eq_of_toNat_eq ?_
  rw [toNat_formA, BitVec.toNat_or, BitVec.toNat_setWidth, Nat.mod_eq_of_lt h]
  exact (Nat.two_pow_add_eq_or_of_lt (i := 12) h 1).symm

/-- The step of a finished program only latches `opcode` (R71, R170). -/
theorem step_of_finished (h : Finished s) : step s = .next { s with opcode := s.wordAtPc } := by
  obtain ⟨hpc, hw⟩ := h
  obtain ⟨-, -, hself⟩ := jumpSetsPc
  obtain ⟨-, hle⟩ := State.canFetch_iff.1 hpc
  exact hself s hpc (hw.trans (selfJump_eq_formA (by omega)))

/-- A cycle, a tick or a keypad write on a finished program goes on and changes at most `opcode`, the timers and the
keypad. -/
theorem performRunning_of_finished {op : HostOp} (h : Finished s)
    (hop : op = .cycle ∨ op = .tick ∨ ∃ flags, op = .writeKeypad flags) :
    (performRunning op s).1.ended = none ∧ SameButInputs s (performRunning op s).1.machine := by
  obtain rfl | rfl | ⟨flags, rfl⟩ := hop
  · obtain ⟨hstate, hnoFault⟩ := cycle_of_step_next (step_of_finished h)
    refine ⟨hnoFault, ?_⟩
    rw [performRunning, hstate]
    rfl
  · exact ⟨rfl, rfl⟩
  · exact ⟨rfl, rfl⟩

theorem runOps_of_finished {ops : List HostOp} {r : Session} (hr : r.ended = none) (h : Finished r.machine)
    (hops : ∀ op ∈ ops, op = .cycle ∨ op = .tick ∨ ∃ flags, op = .writeKeypad flags) :
    (runOps ops r).ended = none ∧ SameButInputs r.machine (runOps ops r).machine := by
  induction ops generalizing r with
  | nil => exact ⟨hr, .refl _⟩
  | cons op ops ih =>
    obtain ⟨hop, hops⟩ := List.forall_mem_cons.1 hops
    obtain ⟨hended, hsame⟩ := performRunning_of_finished h hop
    rw [← perform_of_running hr] at hended hsame
    obtain ⟨hended', hsame'⟩ := ih hended (hsame.finished h) hops
    exact ⟨hended', hsame.trans hsame'⟩

end Sys2Proof.Machine

namespace Sys2Proof

open Sys2Proof.Machine

/-- Settles O58: the host records the fault of the cycle, and from then on only a reset has an effect. -/
theorem faultEndsTheRunUntilReset : Obligations.FaultEndsTheRunUntilReset := by
  refine ⟨fun s f h => ?ends, fun ops r hr hops => ?stays, fun r => ?reset⟩
  case ends =>
    rw [perform_of_running rfl, performRunning, cycle_of_step_fault h]
    rfl
  case stays =>
    obtain ⟨f, hf⟩ := Option.ne_none_iff_exists'.1 hr
    exact runOps_of_ended hf hops
  case reset =>
    rw [perform_reset]
    rfl

/-- Settles O60: only RND moves the index, by one, and no host operation takes it back. -/
theorem randomDrawIndexMovesOnAndNeverBack : Obligations.RandomDrawIndexMovesOnAndNeverBack := by
  refine ⟨fun i s t h => ⟨?rnd, fun hi => ?other⟩, draws_le_runOps, fun ops s x kk hpc hi => ?afterwards⟩
  case rnd =>
    rintro ⟨x, kk, rfl⟩
    exact draws_of_exec_rnd h
  case other => exact (exec_changesOnly h).draws_eq (touched_draws hi)
  case afterwards =>
    have hcycle : (cycle s).1.draws = s.draws + 1 := by
      rw [cycle, step_of_decode hpc hi, exec_rnd]
      rfl
    have hops := draws_le_runOps ops (perform .cycle ⟨s, none⟩).1
    rw [runOps_cons]
    exact Nat.lt_of_lt_of_le (hcycle ▸ Nat.lt_succ_self s.draws) hops

/-- Settles O59: each of the three operations keeps `pc` and main memory, so the self-jump is met again. -/
theorem finishedProgramStaysFinished : Obligations.FinishedProgramStaysFinished := by
  intro ops s h hops
  obtain ⟨hended, hsame⟩ := runOps_of_finished (r := ⟨s, none⟩) rfl h hops
  exact ⟨hended, hsame.finished h, hsame⟩

end Sys2Proof
end
